-- ==== Sys2Proof/Word.lean ====
section
/-! DEFINITION. The word types of the SHT31 protocol codec (00_scope.md R7, R8; 20_memory.md R38).
Bit 0 is the least significant bit of every one of them, and every value is unsigned. -/

namespace Sys2Proof

/-- A byte: an operand, a check byte, a wire byte, a checksum (R7, R38). -/
abbrev Byte := BitVec 8

/-- A word: a command code, a status word, a raw measurement (R7, R38). -/
abbrev Word := BitVec 16

/-- A request word: 56 bits, one length for every request (R44, R59). -/
abbrev Request := BitVec 56

end Sys2Proof
end

