-- ==== Sys2Proof/Syntax.lean ====
section
/-! DEFINITION. The instructions: one constructor for every row of the opcode table (30_encoding.md R45, R46, R53).

The table's rows overlap: ENCODE's row covers the rows that fix its `cmd`, and a wire-command row names a 16-bit
word that reaches the block only inside a DECODE_CMD request. notes/assumptions/3.md and 4.md say which constructor
a request decodes to; every overlapping row gives a request the one meaning the spec gives it. -/

namespace Sys2Proof

/-- One constructor per row of the opcode table. Operand names follow R60. -/
inductive Instr where
  /-- CRC8 (R66). -/
  | crc8 (d0 d1 : Byte)
  /-- VERIFY (R67). -/
  | verify (d0 d1 chk : Byte)
  /-- ENCODE with any `cmd` (R73), the form whose 48 ignored bits are not all zero (R48). -/
  | encode (cmd : BitVec 4) (ignored : BitVec 48)
  /-- DECODE_CMD of a word that is on none of the wire-command rows (R76). -/
  | decodeCmd (w0 w1 : Byte)
  /-- DECODE_STATUS (R82). -/
  | decodeStatus (m l c : Byte)
  /-- DECODE_MEAS (R84). -/
  | decodeMeas (tm tl tc hm hl hc : Byte)
  /-- DECODE_SERIAL (R91). -/
  | decodeSerial (am al ac bm bl bc : Byte)
  /-- ENCODE READ_STATUS: `cmd = 0x0` (R46, R73). -/
  | encodeReadStatus
  /-- ENCODE SOFT_RESET: `cmd = 0x1` (R46, R73, R79). -/
  | encodeSoftReset
  /-- ENCODE HEATER_ENABLE: `cmd = 0x2` (R46, R73). -/
  | encodeHeaterEnable
  /-- ENCODE HEATER_DISABLE: `cmd = 0x3` (R46, R73). -/
  | encodeHeaterDisable
  /-- ENCODE READ_SERIAL: `cmd = 0x4` (R46, R73). -/
  | encodeReadSerial
  /-- ENCODE MEASURE: `cmd = 0x5` (R46, R73). -/
  | encodeMeasure
  /-- ENCODE with `cmd = 0x6` or `0x7`: `low` is bit 0 of `cmd` (R75). -/
  | encodeReserved67 (low : BitVec 1)
  /-- ENCODE with `cmd` from `0x8` to `0xF`: `low` is bits 2:0 of `cmd` (R75). -/
  | encodeReserved8F (low : BitVec 3)
  /-- The reserved operation selector `0x7` (R49). -/
  | reservedOp7
  /-- A reserved operation selector from `0x8` to `0xF`: `low` is bits 2:0 of `op` (R49). -/
  | reservedOp8F (low : BitVec 3)
  /-- The wire word of READ_STATUS (R53), as DECODE_CMD takes it (R76). -/
  | wireReadStatus
  /-- The wire word of SOFT_RESET (R53), as DECODE_CMD takes it (R76). -/
  | wireSoftReset
  /-- The wire word of HEATER_ENABLE (R53), as DECODE_CMD takes it (R76). -/
  | wireHeaterEnable
  /-- The wire word of HEATER_DISABLE (R53), as DECODE_CMD takes it (R76). -/
  | wireHeaterDisable
  /-- A legal value of SERIAL_CMD (R53), as DECODE_CMD takes it (R76). -/
  | wireReadSerial (code : Word)
  /-- A legal value of MEAS_CMD (R53), as DECODE_CMD takes it (R76). -/
  | wireMeasure (code : Word)
  deriving DecidableEq, Repr

end Sys2Proof
end

