-- ==== Sys2Proof/Decode.lean ====
section
/-! DEFINITION. Decoding a 56-bit request (30_encoding.md R44 to R49, R62) and encoding an instruction back into
one. Both are written from the field table of R44 and the selector tables of R45, R46 and R53. -/

namespace Sys2Proof

/-! ## The wire codes (R53) -/

/-- READ_STATUS's wire code (R53). -/
def readStatusCode : Word := 0xF32D

/-- SOFT_RESET's wire code (R53). -/
def softResetCode : Word := 0x30A2

/-- HEATER_ENABLE's wire code (R53). -/
def heaterEnableCode : Word := 0x306D

/-- HEATER_DISABLE's wire code (R53). -/
def heaterDisableCode : Word := 0x3066

/-- The legal values of SERIAL_CMD (R5, R53). -/
def serialCodes : List Word := [0x3780, 0x3682]

/-- The legal values of MEAS_CMD (R5, R53). -/
def measCodes : List Word := [0x2C06, 0x2C0D, 0x2C10, 0x2400, 0x240B, 0x2416]

/-- Every word that is on a wire-command row of the opcode table under some legal configuration (R53). -/
def tableWireCodes : List Word :=
  [readStatusCode, softResetCode, heaterEnableCode, heaterDisableCode] ++ serialCodes ++ measCodes

/-! ## The fields of a request (R44) -/

/-- `op = req[55:52]` (R44, R62). -/
def reqOp (w : Request) : BitVec 4 := w.extractLsb' 52 4

/-- `cmd = req[51:48]` (R44, R62). -/
def reqCmd (w : Request) : BitVec 4 := w.extractLsb' 48 4

/-- `bk = req[47 - 8k : 40 - 8k]`, for k from 0 to 5 (R62). -/
def reqByte (w : Request) (k : Nat) : Byte := w.extractLsb' (40 - 8 * k) 8

/-- The six operand bytes together, `req[47:0]`: what ENCODE ignores (R47, R48). -/
def reqBytes (w : Request) : BitVec 48 := w.extractLsb' 0 48

/-- A request word from its fields (R44). -/
def packRequest (op cmd : BitVec 4) (b0 b1 b2 b3 b4 b5 : Byte) : Request :=
  op ++ cmd ++ b0 ++ b1 ++ b2 ++ b3 ++ b4 ++ b5

/-! ## Decoding -/

/-- The instruction of an ENCODE request (R46, R62, R75). One whose ignored bits are all zero is on the row of its
`cmd` value; any other is on ENCODE's own row (DESIGN CHOICE, notes/assumptions/3.md). -/
def decodeEncode (cmd : BitVec 4) (ignored : BitVec 48) : Instr :=
  if ignored = 0 then
    match cmd.toNat with
    | 0 => .encodeReadStatus
    | 1 => .encodeSoftReset
    | 2 => .encodeHeaterEnable
    | 3 => .encodeHeaterDisable
    | 4 => .encodeReadSerial
    | 5 => .encodeMeasure
    | 6 => .encodeReserved67 0
    | 7 => .encodeReserved67 1
    | _ => .encodeReserved8F (cmd.extractLsb' 0 3)
  else .encode cmd ignored

/-- The instruction of a DECODE_CMD request (R62, R76): a word on a wire-command row is on that row, and any other
word is on DECODE_CMD's own row (DESIGN CHOICE, notes/assumptions/4.md). -/
def decodeLookup (w0 w1 : Byte) : Instr :=
  let w : Word := w0 ++ w1
  if w = readStatusCode then .wireReadStatus
  else if w = softResetCode then .wireSoftReset
  else if w = heaterEnableCode then .wireHeaterEnable
  else if w = heaterDisableCode then .wireHeaterDisable
  else if w ∈ serialCodes then .wireReadSerial w
  else if w ∈ measCodes then .wireMeasure w
  else .decodeCmd w0 w1

/-- The decoder of request words (R62): it reads `op` and dispatches by the table of R45. It is total: every 56-bit
word is one of the seven operations or on a reserved row. -/
def decode (w : Request) : Instr :=
  match (reqOp w).toNat with
  | 0 => .crc8 (reqByte w 0) (reqByte w 1)
  | 1 => .verify (reqByte w 0) (reqByte w 1) (reqByte w 2)
  | 2 => decodeEncode (reqCmd w) (reqBytes w)
  | 3 => decodeLookup (reqByte w 0) (reqByte w 1)
  | 4 => .decodeStatus (reqByte w 0) (reqByte w 1) (reqByte w 2)
  | 5 => .decodeMeas (reqByte w 0) (reqByte w 1) (reqByte w 2) (reqByte w 3) (reqByte w 4) (reqByte w 5)
  | 6 => .decodeSerial (reqByte w 0) (reqByte w 1) (reqByte w 2) (reqByte w 3) (reqByte w 4) (reqByte w 5)
  | 7 => .reservedOp7
  | _ => .reservedOp8F ((reqOp w).extractLsb' 0 3)

/-- Why a string of bytes is no request: it has not the one length of R44. -/
inductive DecodeError where
  /-- Fewer than seven bytes. Raised by `decodeBytes`; safe: nothing runs. -/
  | tooShort (length : Nat)
  /-- More than seven bytes. Raised by `decodeBytes`; safe: nothing runs. -/
  | tooLong (length : Nat)
  deriving DecidableEq, Repr

/-- Seven bytes as a request word, in the order of its 14 hexadecimal digits (R44). -/
def requestOfBytes (a0 a1 a2 a3 a4 a5 a6 : Byte) : Request :=
  a0 ++ a1 ++ a2 ++ a3 ++ a4 ++ a5 ++ a6

/-- Decoding any string of bytes: the seven bytes of a request in the order of R44's hexadecimal form, or a rejection
by name (DESIGN CHOICE, notes/assumptions/6.md: the spec's port takes the whole word at once). -/
def decodeBytes : List Byte → Except DecodeError Instr
  | [a0, a1, a2, a3, a4, a5, a6] => .ok (decode (requestOfBytes a0 a1 a2 a3 a4 a5 a6))
  | bs => if bs.length < 7 then .error (.tooShort bs.length) else .error (.tooLong bs.length)

/-! ## Encoding -/

/-- The DECODE_CMD request that carries a wire word, most significant byte first (R32, R60, R76). -/
def lookupRequest (w : Word) : Request :=
  packRequest 3 0 (w.extractLsb' 8 8) (w.extractLsb' 0 8) 0 0 0 0

/-- The ENCODE request of a selector, its ignored fields zero (R48, R60). -/
def encodeRequest (cmd : BitVec 4) : Request := packRequest 2 cmd 0 0 0 0 0 0

/-- The request word of an instruction (R44, R45, R60): every field its form does not name is zero. -/
def encode : Instr → Request
  | .crc8 d0 d1 => packRequest 0 0 d0 d1 0 0 0 0
  | .verify d0 d1 chk => packRequest 1 0 d0 d1 chk 0 0 0
  | .encode cmd ignored => (2 : BitVec 4) ++ cmd ++ ignored
  | .decodeCmd w0 w1 => packRequest 3 0 w0 w1 0 0 0 0
  | .decodeStatus m l c => packRequest 4 0 m l c 0 0 0
  | .decodeMeas tm tl tc hm hl hc => packRequest 5 0 tm tl tc hm hl hc
  | .decodeSerial am al ac bm bl bc => packRequest 6 0 am al ac bm bl bc
  | .encodeReadStatus => encodeRequest 0
  | .encodeSoftReset => encodeRequest 1
  | .encodeHeaterEnable => encodeRequest 2
  | .encodeHeaterDisable => encodeRequest 3
  | .encodeReadSerial => encodeRequest 4
  | .encodeMeasure => encodeRequest 5
  | .encodeReserved67 low => encodeRequest ((3 : BitVec 3) ++ low)
  | .encodeReserved8F low => encodeRequest ((1 : BitVec 1) ++ low)
  | .reservedOp7 => packRequest 7 0 0 0 0 0 0 0
  | .reservedOp8F low => packRequest ((1 : BitVec 1) ++ low) 0 0 0 0 0 0 0
  | .wireReadStatus => lookupRequest readStatusCode
  | .wireSoftReset => lookupRequest softResetCode
  | .wireHeaterEnable => lookupRequest heaterEnableCode
  | .wireHeaterDisable => lookupRequest heaterDisableCode
  | .wireReadSerial code => lookupRequest code
  | .wireMeasure code => lookupRequest code

/-! ## The opcode table's rows -/

/-- The bits of a request that the row of an instruction fixes: the `mask` column of the opcode table. A wire-command
row fixes bits of the 16-bit word, which stands in `b0` and `b1` of the DECODE_CMD request that carries it (DESIGN
CHOICE, notes/assumptions/4.md). -/
def rowMask : Instr → Request
  | .encodeReadStatus | .encodeSoftReset | .encodeHeaterEnable => 0xFF000000000000
  | .encodeHeaterDisable | .encodeReadSerial | .encodeMeasure => 0xFF000000000000
  | .encodeReserved67 _ => 0xFE000000000000
  | .encodeReserved8F _ => 0xF8000000000000
  | .reservedOp8F _ => 0x80000000000000
  | .wireReadStatus | .wireSoftReset | .wireHeaterEnable | .wireHeaterDisable => 0xF0FFFF00000000
  | .crc8 _ _ | .verify _ _ _ | .encode _ _ | .decodeCmd _ _ | .decodeStatus _ _ _ => 0xF0000000000000
  | .decodeMeas _ _ _ _ _ _ | .decodeSerial _ _ _ _ _ _ | .reservedOp7 => 0xF0000000000000
  | .wireReadSerial _ | .wireMeasure _ => 0xF0000000000000

/-- The values of those bits: the `match` column of the opcode table. -/
def rowMatch : Instr → Request
  | .crc8 _ _ => 0x00000000000000
  | .verify _ _ _ => 0x10000000000000
  | .encode _ _ => 0x20000000000000
  | .decodeCmd _ _ => 0x30000000000000
  | .decodeStatus _ _ _ => 0x40000000000000
  | .decodeMeas _ _ _ _ _ _ => 0x50000000000000
  | .decodeSerial _ _ _ _ _ _ => 0x60000000000000
  | .encodeReadStatus => 0x20000000000000
  | .encodeSoftReset => 0x21000000000000
  | .encodeHeaterEnable => 0x22000000000000
  | .encodeHeaterDisable => 0x23000000000000
  | .encodeReadSerial => 0x24000000000000
  | .encodeMeasure => 0x25000000000000
  | .encodeReserved67 _ => 0x26000000000000
  | .encodeReserved8F _ => 0x28000000000000
  | .reservedOp7 => 0x70000000000000
  | .reservedOp8F _ => 0x80000000000000
  | .wireReadStatus => 0x30F32D00000000
  | .wireSoftReset => 0x3030A200000000
  | .wireHeaterEnable => 0x30306D00000000
  | .wireHeaterDisable => 0x30306600000000
  | .wireReadSerial _ | .wireMeasure _ => 0x30000000000000

/-! ## The words of the opcode table -/

/-- The request that puts a word of the opcode table before the block: a 16-bit row is a wire word, which the
DECODE_CMD request that carries it brings to the block; every other row is a request word (notes/assumptions/4.md). -/
def tableRequest (nbits w : Nat) : Request :=
  if nbits = 16 then lookupRequest (BitVec.ofNat 16 w) else BitVec.ofNat 56 w

/-- The instruction the decoder reads from a word of the opcode table, bits numbered as the table numbers them. A
number that does not fit its row's word is no word of it. -/
def decodeTableWord (nbits w : Nat) : Option Instr :=
  if w < 2 ^ (if nbits = 16 then 16 else 56) then some (decode (tableRequest nbits w)) else none

end Sys2Proof
end

