-- ==== Sys2Proof/Machine/Binary64.lean ====
section
/-! DEFINITION. Rounding to binary64 (00_scope.md R11): `fl64 x` is the binary64 value nearest to x, ties to even. A
binary64 value is held as the rational it stands for while it is computed with, and packed into its 64 bits at the
end; the operations ⊕, ⊗ and ⊘ of R11 round the exact result once. -/

namespace Sys2Proof.Machine

/-- The floor of the base-2 logarithm of n / d, for positive n and d. -/
def floorLog2 (n d : Nat) : Int :=
  let e : Int := (n.log2 : Int) - (d.log2 : Int)
  if d * 2 ^ e.toNat ≤ n * 2 ^ (-e).toNat then e else e - 1

/-- a / b rounded to the nearest integer, a tie to the even one (R11). -/
def roundHalfEven (a b : Nat) : Nat :=
  if 2 * (a % b) < b then a / b
  else if b < 2 * (a % b) then a / b + 1
  else a / b + a / b % 2

/-- The exponent of the unit in the last place of a binary64 near n / d: 52 below the leading bit, and never below
the subnormals' -1074. -/
def ulpExponent (n d : Nat) : Int := max (floorLog2 n d - 52) (-1074)

/-- n / d in units of 2^k, rounded (R11). -/
def significand (n d : Nat) (k : Int) : Nat :=
  roundHalfEven (n * 2 ^ (-k).toNat) (d * 2 ^ k.toNat)

/-- `fl64(x)` (R11), as a rational. Only finite values can arise in this block (R11), so nothing here stands for an
infinity: notes/assumptions/8.md. -/
def fl64 (x : Rat) : Rat :=
  let n := x.num.natAbs
  let k := ulpExponent n x.den
  mkRat (x.num.sign * (significand n x.den k * 2 ^ k.toNat : Nat)) (2 ^ (-k).toNat)

/-- `a ⊕ b` (R11). -/
def fadd (a b : Rat) : Rat := fl64 (a + b)

/-- `a ⊗ b` (R11). -/
def fmul (a b : Rat) : Rat := fl64 (a * b)

/-- `a ⊘ b` (R11). -/
def fdiv (a b : Rat) : Rat := fl64 (a / b)

/-- The 64 bits of a finite binary64 value: sign, biased exponent, fraction (IEEE 754). -/
def packBinary64 (x : Rat) : BitVec 64 :=
  let n := x.num.natAbs
  let k := ulpExponent n x.den
  let m := significand n x.den k
  let sign : Nat := if x < 0 then 2 ^ 63 else 0
  if m < 2 ^ 52 then BitVec.ofNat 64 (sign + m)
  else BitVec.ofNat 64 (sign + (k + 1075).toNat * 2 ^ 52 + (m - 2 ^ 52))

/-- The value of 64 bits read as a binary64 (IEEE 754), `none` for the patterns of infinities and NaNs. -/
def binary64Value (b : BitVec 64) : Option Rat :=
  let expo := (b.extractLsb' 52 11).toNat
  let frac := (b.extractLsb' 0 52).toNat
  let m : Nat := if expo = 0 then frac else frac + 2 ^ 52
  let k : Int := (max expo 1 : Nat) - 1075
  let mag : Rat := mkRat (m * 2 ^ k.toNat : Nat) (2 ^ (-k).toNat)
  if expo = 2047 then none else some (if b.msb then -mag else mag)

end Sys2Proof.Machine
end

