-- ==== Sys2Proof/Config.lean ====
section
/-! DEFINITION. What is fixed when the block is built: the closed Command set (41_command_codec.md R72) and the
configuration record (00_scope.md R5). Which configurations are legal (R6) is `Machine.legalConfig`. -/

namespace Sys2Proof

/-- The Command set: exactly six members, in the order of their selectors (R46, R72). -/
inductive Command where
  | readStatus
  | softReset
  | heaterEnable
  | heaterDisable
  | readSerial
  | measure
  deriving DecidableEq, Repr

/-- The conversion mode `CONV_MODE` (R5): exact rationals (R85, R86), binary64 in the written order (R87), or the
binary64 nearest the exact value (R88). -/
inductive ConvMode where
  | exact
  | seq64
  | cr64
  deriving DecidableEq, Repr

/-- The configuration record of R5. It is fixed for the life of a model instance: no step writes it (R14, R43).
`addr0` and `addr1` are the Bus Session's: no operation of the block reads them (R39). -/
structure Config where
  crcPoly   : Byte
  crcInit   : Byte
  crcXorOut : Byte
  measCmd   : Word
  serialCmd : Word
  convMode  : ConvMode
  addr0     : BitVec 7
  addr1     : BitVec 7
  deriving DecidableEq, Repr

/-- The default value of every parameter, from the table of R5. -/
def Config.default : Config where
  crcPoly   := 0x31
  crcInit   := 0xFF
  crcXorOut := 0x00
  measCmd   := 0x2C06
  serialCmd := 0x3780
  convMode  := .seq64
  addr0     := 0x44
  addr1     := 0x45

end Sys2Proof
end

