-- ==== Sys2Proof/Machine/State.lean ====
section
/-! DEFINITION. The state of the block (10_state.md R14 to R28), the ports of its response (R19), what the host may do
to it (70_reset_and_hazards.md R120), and the reasons a step can stop. -/

namespace Sys2Proof.Machine

/-- The block's mode (R16). -/
inductive Mode where
  | ready
  | faulted
  deriving DecidableEq, Repr

/-- The condition code `resp.kind` (R19, R20). Its 2-bit codes are `Kind.code`; the code 0b11 is reserved and no kind
has it. -/
inductive Kind where
  | ok
  | checksumMismatch
  | protocolMisuse
  deriving DecidableEq, Repr

/-- A value of `temp` or `hum`: a rational when `CONV_MODE = Exact`, the 64 bits of a binary64 otherwise (R19, R30). -/
inductive Reading where
  | exact (q : Rat)
  | binary64 (bits : BitVec 64)
  deriving DecidableEq, Repr

/-- The response record (R19, R50): one field per port, `none` where the field is ⊥ (R10). A port of one bit is a
`Bool`, `true` for 1. `matched` is the port the spec calls `match`. -/
structure Response where
  kind           : Kind
  crc            : Option Byte
  matched        : Option Bool
  wire0          : Option Byte
  wire1          : Option Byte
  rlen           : Option (BitVec 3)
  cmdValid       : Option Bool
  cmdOut         : Option (BitVec 4)
  status         : Option Word
  alertPending   : Option Bool
  heaterActive   : Option Bool
  checksumStatus : Option Bool
  rhAlert        : Option Bool
  tAlert         : Option Bool
  resetDetected  : Option Bool
  commandStatus  : Option Bool
  rawT           : Option Word
  rawRh          : Option Word
  temp           : Option Reading
  hum            : Option Reading
  serial         : Option (BitVec 32)
  deriving DecidableEq, Repr

/-- The ports of the response by name (R19). -/
inductive Port where
  | kind | crc | matched | wire0 | wire1 | rlen | cmdValid | cmdOut | status
  | alertPending | heaterActive | checksumStatus | rhAlert | tAlert | resetDetected | commandStatus
  | rawT | rawRh | temp | hum | serial
  deriving DecidableEq, Repr

/-- What a port holds when it holds a value: bits of its width (R19), or a reading. -/
inductive PortValue where
  | bits (width : Nat) (value : Nat)
  | reading (r : Reading)
  deriving DecidableEq, Repr

/-- The three moves of the host (R120): a request word, a read of one port of the response, the reset event. -/
inductive Move where
  | request (w : Request)
  | read (p : Port)
  | reset
  deriving DecidableEq, Repr

/-- Why a step stops. -/
inductive Fault where
  /-- A request met the block in `Faulted`: the block is stuck and has no step (R17, R100). Raised by every
  instruction through `accept`; it ends a run where the host makes no reset after that request (`awaitsReset`).
  Safe: the spec gives the block no step there (DEDUCED, notes/assumptions/7.md). -/
  | stuckInFaulted
  /-- The host read a port that is ⊥ (R10, R121). Raised by the host's read move. Safe: the spec calls it a fault of
  the run. -/
  | readOfNoValue (p : Port)
  deriving DecidableEq, Repr

/-- Why a step has no meaning. -/
inductive Refusal where
  /-- An instruction the model gives no meaning yet. Raised by no instruction of this model. Safe. -/
  | notModelled (mnemonic : String)
  /-- The configuration breaks a constraint of R6, for which "the model has no meaning". Raised by every
  instruction through `accept` and by `step` (DEDUCED, notes/assumptions/10.md). Safe. -/
  | illegalConfiguration
  deriving DecidableEq, Repr

/-- The state. `mode` and `resp` are the block's own two (R14): `resp = none` is the response ⊥ of R28. `cfg` is the
configuration, an argument of the spec's step, carried beside the state and never written (R14; DESIGN CHOICE,
notes/assumptions/1.md). `moves` is what the host has yet to do, oldest first (DESIGN CHOICE, notes/assumptions/2.md). -/
structure State where
  cfg   : Config
  mode  : Mode
  resp  : Option Response
  moves : List Move
  deriving DecidableEq, Repr

/-- The state right after reset (R28, R111): `Ready`, the response ⊥. The configuration is the default of R5, and the
host has announced nothing. -/
def State.reset : State where
  cfg   := Config.default
  mode  := .ready
  resp  := none
  moves := []

end Sys2Proof.Machine
end

