-- ==== Sys2Proof/Machine/Conversion.lean ====
section
/-! DEFINITION. The temperature and humidity conversions in their three modes (42_response_decode.md R85 to R88). -/

namespace Sys2Proof.Machine

/-- `T(r) = -45 + 175 * r / 65535`, exactly (R85). -/
def temperatureExact (r : Nat) : Rat := -45 + 175 * (r : Rat) / 65535

/-- `100 * r / 65535`, exactly, before the clamp (R86). -/
def humidityUnclamped (r : Nat) : Rat := 100 * (r : Rat) / 65535

/-- The clamp to [0, 100] of R86 and R87. -/
def clampPercent (x : Rat) : Rat := min (max x 0) 100

/-- `RH(r) = min(max(100 * r / 65535, 0), 100)`, exactly (R86). -/
def humidityExact (r : Nat) : Rat := clampPercent (humidityUnclamped r)

/-- `T(r) = (-45.0) ⊕ (175.0 ⊗ (r ⊘ 65535.0))` (R87). -/
def temperatureSeq64 (r : Nat) : Rat := fadd (-45) (fmul 175 (fdiv (r : Rat) 65535))

/-- `h = 100.0 ⊗ (r ⊘ 65535.0)`, before the clamp (R87). -/
def humidityUnclampedSeq64 (r : Nat) : Rat := fmul 100 (fdiv (r : Rat) 65535)

/-- `RH(r) = min(max(h, 0.0), 100.0)` (R87). -/
def humiditySeq64 (r : Nat) : Rat := clampPercent (humidityUnclampedSeq64 r)

/-- `T(r)` as the conversion mode gives it (R84, R85, R87, R88). -/
def temperature (m : ConvMode) (r : Word) : Reading :=
  match m with
  | .exact => .exact (temperatureExact r.toNat)
  | .seq64 => .binary64 (packBinary64 (temperatureSeq64 r.toNat))
  | .cr64 => .binary64 (packBinary64 (fl64 (temperatureExact r.toNat)))

/-- `RH(r)` as the conversion mode gives it (R84, R86, R87, R88). -/
def humidity (m : ConvMode) (r : Word) : Reading :=
  match m with
  | .exact => .exact (humidityExact r.toNat)
  | .seq64 => .binary64 (packBinary64 (humiditySeq64 r.toNat))
  | .cr64 => .binary64 (packBinary64 (fl64 (humidityExact r.toNat)))

/-- The number a reading stands for, `none` for a pattern of 64 bits that is no finite binary64. -/
def Reading.value : Reading → Option Rat
  | .exact q => some q
  | .binary64 b => binary64Value b

/-- The type of a reading is the one its conversion mode gives (R30). -/
def Reading.fits (m : ConvMode) : Reading → Bool
  | .exact _ => m == .exact
  | .binary64 _ => m != .exact

end Sys2Proof.Machine
end

