-- ==== Sys2Proof/Machine/Flags.lean ====
section
/-! DEFINITION. The codes of `resp.kind` (10_state.md R19, R20) and the named bits of a StatusWord
(30_encoding.md R56; 42_response_decode.md R83). -/

namespace Sys2Proof.Machine

/-- The 2-bit code of a kind (R19, R95). -/
def Kind.code : Kind → BitVec 2
  | .ok => 0b00
  | .checksumMismatch => 0b01
  | .protocolMisuse => 0b10

/-- Bit 15: at least one alert is pending (R56, R83). -/
def statusAlertPending (w : Word) : Bool := w.getLsbD 15

/-- Bit 13: the heater is on (R56, R83). -/
def statusHeaterActive (w : Word) : Bool := w.getLsbD 13

/-- Bit 11: a humidity alert (R56, R83). -/
def statusRhAlert (w : Word) : Bool := w.getLsbD 11

/-- Bit 10: a temperature alert (R56, R83). -/
def statusTAlert (w : Word) : Bool := w.getLsbD 10

/-- Bit 4: a reset was detected since the last clear-status (R56, R83). -/
def statusResetDetected (w : Word) : Bool := w.getLsbD 4

/-- Bit 1: the last command was not processed (R56, R83). -/
def statusCommandStatus (w : Word) : Bool := w.getLsbD 1

/-- Bit 0: the checksum of the last write transfer failed (R56, R83). -/
def statusChecksumStatus (w : Word) : Bool := w.getLsbD 0

/-- The bits of a StatusWord that carry a meaning in the block; the rest, 14, 12, 9:5 and 3:2, are reserved (R57). -/
def statusNamedMask : Word := 0xAC13

end Sys2Proof.Machine
end

