-- ==== Sys2Proof/Machine/Crc.lean ====
section
/-! DEFINITION. The checksum function of the Checksum Unit (40_checksum.md R63 to R65). -/

namespace Sys2Proof.Machine

/-- One shift of the CRC accumulator: a logical shift left of 8 bits, with the generator XORed in when bit 7 was set
(R64). -/
def crcShift (poly c : Byte) : Byte :=
  if c.msb then (c <<< 1) ^^^ poly else c <<< 1

/-- `k` shifts, one after another (R64). -/
def crcShifts (poly : Byte) : Nat → Byte → Byte
  | 0, c => c
  | k + 1, c => crcShifts poly k (crcShift poly c)

/-- `crc8_update(c, d)`: the accumulator absorbs one byte, most significant bit first (R64). -/
def crc8Update (poly c d : Byte) : Byte := crcShifts poly 8 (c ^^^ d)

/-- `crc8(d0, d1)`: the checksum of two data bytes, the word's most significant byte first (R34, R65). The accumulator
lives only inside this computation and starts from `CRC_INIT` each time (R26). -/
def crc8 (cfg : Config) (d0 d1 : Byte) : Byte :=
  crc8Update cfg.crcPoly (crc8Update cfg.crcPoly cfg.crcInit d0) d1 ^^^ cfg.crcXorOut

end Sys2Proof.Machine
end

