-- ==== Sys2Proof/Machine/Operands.lean ====
section
/-! DEFINITION. The operand forms: words and groups of request bytes (20_memory.md R33 to R37, 42_response_decode.md
R81), the Command tables (30_encoding.md R46, R53, R55; 41_command_codec.md R74), and which configurations are legal
(00_scope.md R6). -/

namespace Sys2Proof.Machine

/-! ## Words and groups -/

/-- `word(g) = msb(g) ++ lsb(g)`: the most significant byte comes first on the wire (R33, R81). -/
def wordOf (msb lsb : Byte) : Word := msb ++ lsb

/-- `code[15:8]`, the byte that goes on the wire first (R32). -/
def wireMsb (code : Word) : Byte := code.extractLsb' 8 8

/-- `code[7:0]`, the byte that goes on the wire second (R32). -/
def wireLsb (code : Word) : Byte := code.extractLsb' 0 8

/-- `ok(g)`: the check byte equals the checksum of the two data bytes (R54, R81). -/
def groupOk (cfg : Config) (msb lsb chk : Byte) : Bool := crc8 cfg msb lsb == chk

/-- `serial = word(group 0) ++ word(group 1)`: the first group is the high half (R35, R91). -/
def serialOf (high low : Word) : BitVec 32 := high ++ low

/-! ## The Command set -/

/-- The six members of the Command set (R72). -/
def allCommands : List Command :=
  [.readStatus, .softReset, .heaterEnable, .heaterDisable, .readSerial, .measure]

/-- The wire code of a Command under a configuration: `code(c)` (R53, R73). -/
def wireCode (cfg : Config) : Command → Word
  | .readStatus => readStatusCode
  | .softReset => softResetCode
  | .heaterEnable => heaterEnableCode
  | .heaterDisable => heaterDisableCode
  | .readSerial => cfg.serialCmd
  | .measure => cfg.measCmd

/-- The number of response bytes a Command draws from the sensor: `rlen(c)` (R55, R74). -/
def responseLength : Command → BitVec 3
  | .readStatus => 3
  | .measure => 6
  | .readSerial => 6
  | .heaterEnable => 0
  | .heaterDisable => 0
  | .softReset => 0

/-- The `cmd` value that selects a Command (R46). -/
def selectorOf : Command → BitVec 4
  | .readStatus => 0
  | .softReset => 1
  | .heaterEnable => 2
  | .heaterDisable => 3
  | .readSerial => 4
  | .measure => 5

/-- The Command that a `cmd` value selects, none for `0x6` to `0xF` (R46, R75). -/
def commandOfSelector (cmd : BitVec 4) : Option Command :=
  match cmd.toNat with
  | 0 => some .readStatus
  | 1 => some .softReset
  | 2 => some .heaterEnable
  | 3 => some .heaterDisable
  | 4 => some .readSerial
  | 5 => some .measure
  | _ => none

/-- The Command whose wire code a word is, if there is one: the "fixed lookup" (R76). -/
def commandOfWire (cfg : Config) (w : Word) : Option Command :=
  allCommands.find? fun c => wireCode cfg c == w

/-! ## Legal configurations -/

/-- The three constraints of R6: the six wire codes are pairwise distinct, `MEAS_CMD` and `SERIAL_CMD` are from their
lists, and bit 0 of `CRC_POLY` is set. -/
def legalConfig (cfg : Config) : Bool :=
  decide (allCommands.map (wireCode cfg)).Nodup && measCodes.contains cfg.measCmd
    && serialCodes.contains cfg.serialCmd && cfg.crcPoly.getLsbD 0

end Sys2Proof.Machine
end

