-- ==== Sys2Proof/Machine/Ops.lean ====
section
/-! DEFINITION. The shared operations: accepting a request, leaving a response, raising an error, the reset event, and
the host's read of a port. Each operation of the block is one of the `…Response` functions below, a function of the
configuration and the request alone (10_state.md R15, R29). -/

namespace Sys2Proof.Machine

/-! ## Responses -/

/-- The response of kind `k` with every payload field ⊥ (R10, R21). -/
def blankResponse (k : Kind) : Response where
  kind           := k
  crc            := none
  matched        := none
  wire0          := none
  wire1          := none
  rlen           := none
  cmdValid       := none
  cmdOut         := none
  status         := none
  alertPending   := none
  heaterActive   := none
  checksumStatus := none
  rhAlert        := none
  tAlert         := none
  resetDetected  := none
  commandStatus  := none
  rawT           := none
  rawRh          := none
  temp           := none
  hum            := none
  serial         := none

/-- The response of `CRC8` (R66). -/
def crcResponse (cfg : Config) (d0 d1 : Byte) : Response :=
  { blankResponse .ok with crc := some (crc8 cfg d0 d1) }

/-- The response of `VERIFY`: a mismatch is the result `match = 0`, not an error (R67). -/
def verifyResponse (cfg : Config) (d0 d1 chk : Byte) : Response :=
  { blankResponse .ok with matched := some (groupOk cfg d0 d1 chk) }

/-- The response of `ENCODE` for a Command: its wire sequence and response length (R73). -/
def commandResponse (cfg : Config) (c : Command) : Response :=
  { blankResponse .ok with
    wire0 := some (wireMsb (wireCode cfg c))
    wire1 := some (wireLsb (wireCode cfg c))
    rlen  := some (responseLength c) }

/-- The response of `DECODE_CMD` for a wire word (R76). It depends on two parameters of the configuration, against a
sentence of R73 (DEDUCED, notes/assumptions/12.md). -/
def lookupResponse (cfg : Config) (w : Word) : Response :=
  match commandOfWire cfg w with
  | some c => { blankResponse .ok with cmdValid := some true, cmdOut := some (selectorOf c) }
  | none => { blankResponse .ok with cmdValid := some false }

/-- The response of `DECODE_STATUS` for a word that passed verification: the word itself and its seven named bits
(R82, R83). Reserved bits are copied, not checked (R57). -/
def statusResponse (w : Word) : Response :=
  { blankResponse .ok with
    status         := some w
    alertPending   := some (statusAlertPending w)
    heaterActive   := some (statusHeaterActive w)
    rhAlert        := some (statusRhAlert w)
    tAlert         := some (statusTAlert w)
    resetDetected  := some (statusResetDetected w)
    commandStatus  := some (statusCommandStatus w)
    checksumStatus := some (statusChecksumStatus w) }

/-- The response of `DECODE_MEAS` for two words that passed verification, temperature first (R84). -/
def measResponse (cfg : Config) (t rh : Word) : Response :=
  { blankResponse .ok with
    rawT  := some t
    rawRh := some rh
    temp  := some (temperature cfg.convMode t)
    hum   := some (humidity cfg.convMode rh) }

/-- The response of `DECODE_SERIAL` for two words that passed verification (R91). -/
def serialResponse (high low : Word) : Response :=
  { blankResponse .ok with serial := some (serialOf high low) }

/-! ## Accepting a request and leaving a response -/

/-- Every operation reads the mode first: in `Faulted` the block accepts no request and has no step (R16, R17, R100,
R104). A configuration that breaks a constraint is refused before anything else (R6). -/
def accept (s : State) (effect : State → State) : Host.Outcome State Fault Refusal :=
  if legalConfig s.cfg then
    match s.mode with
    | .ready => .next (effect s)
    | .faulted => .fault .stuckInFaulted
  else .refused .illegalConfiguration

/-- An operation that ends with `return`: its response replaces the last one whole (R10, R21). -/
def respond (r : Response) (s : State) : State := { s with resp := some r }

/-- `raise`: the response has the error's kind and every other field ⊥, and a ProtocolMisuse makes the block
`Faulted` (R97, R99). -/
def raiseError (k : Kind) (s : State) : State :=
  { s with
    resp := some (blankResponse k)
    mode := if k = .protocolMisuse then .faulted else s.mode }

/-- `raise ChecksumMismatch()` (R97): the mode does not change. -/
def raiseChecksumMismatch (s : State) : State := raiseError .checksumMismatch s

/-- `raise ProtocolMisuse()` (R99). -/
def raiseProtocolMisuse (s : State) : State := raiseError .protocolMisuse s

/-- The reset event (R111): the only way out of `Faulted` (R100, R106). The configuration does not change. -/
def resetEvent (s : State) : State := { s with mode := .ready, resp := none }

/-- The block is stuck in `Faulted` until a reset that is among the host's `rest` of the moves (R17, R100, R110). A
request meets no step there: it is not accepted, and nothing of the block changes (DEDUCED, notes/assumptions/7.md). -/
def awaitsReset (mode : Mode) (rest : List Move) : Bool := mode == .faulted && rest.contains .reset

/-! ## The three checks an operation can make -/

/-- `ENCODE` for a `cmd` value: ProtocolMisuse outside the Command set (R73, R75). -/
def encodeSelector (cmd : BitVec 4) (s : State) : State :=
  match commandOfSelector cmd with
  | some c => respond (commandResponse s.cfg c) s
  | none => raiseProtocolMisuse s

/-- `DECODE_CMD` of a wire word (R76). -/
def lookupWord (w : Word) (s : State) : State := respond (lookupResponse s.cfg w) s

/-- A decoder's effect: a ChecksumMismatch unless every group it reads passes (R92, R96). -/
def decodeIfOk (groupsOk : Bool) (r : Response) (s : State) : State :=
  if groupsOk then respond r s else raiseChecksumMismatch s

/-! ## The response port -/

/-- A port of one bit as the value a host samples. -/
def bitValue (b : Bool) : PortValue := .bits 1 b.toNat

/-- What a port of a response holds, with the widths of R19; none where the field is ⊥. -/
def portOf (r : Response) : Port → Option PortValue
  | .kind => some (.bits 2 r.kind.code.toNat)
  | .crc => r.crc.map fun v => .bits 8 v.toNat
  | .matched => r.matched.map bitValue
  | .wire0 => r.wire0.map fun v => .bits 8 v.toNat
  | .wire1 => r.wire1.map fun v => .bits 8 v.toNat
  | .rlen => r.rlen.map fun v => .bits 3 v.toNat
  | .cmdValid => r.cmdValid.map bitValue
  | .cmdOut => r.cmdOut.map fun v => .bits 4 v.toNat
  | .status => r.status.map fun v => .bits 16 v.toNat
  | .alertPending => r.alertPending.map bitValue
  | .heaterActive => r.heaterActive.map bitValue
  | .checksumStatus => r.checksumStatus.map bitValue
  | .rhAlert => r.rhAlert.map bitValue
  | .tAlert => r.tAlert.map bitValue
  | .resetDetected => r.resetDetected.map bitValue
  | .commandStatus => r.commandStatus.map bitValue
  | .rawT => r.rawT.map fun v => .bits 16 v.toNat
  | .rawRh => r.rawRh.map fun v => .bits 16 v.toNat
  | .temp => r.temp.map .reading
  | .hum => r.hum.map .reading
  | .serial => r.serial.map fun v => .bits 32 v.toNat

/-- What the host gets when it reads a port: nothing at all before the first response after reset (R28, R121). -/
def readPort (s : State) (p : Port) : Option PortValue := s.resp.bind fun r => portOf r p

/-- The host's read of a port (R120): it has no side effect, and a read of ⊥ is a fault of the run (R121).
What was read is not recorded (DEDUCED, notes/assumptions/13.md). -/
def hostRead (p : Port) (s : State) : Host.Outcome State Fault Refusal :=
  match readPort s p with
  | some _ => .next s
  | none => .fault (.readOfNoValue p)

end Sys2Proof.Machine
end

