-- ==== Sys2Proof/Machine/Checksum.lean ====
section
/-! DEFINITION. The meanings of the Checksum Unit's two operations (40_checksum.md R66, R67). -/

namespace Sys2Proof.Machine

/-- `CRC8` (R66). -/
def execCrc8 (d0 d1 : Byte) (s : State) : Host.Outcome State Fault Refusal :=
  accept s (respond (crcResponse s.cfg d0 d1))

/-- `VERIFY` (R67). -/
def execVerify (d0 d1 chk : Byte) (s : State) : Host.Outcome State Fault Refusal :=
  accept s (respond (verifyResponse s.cfg d0 d1 chk))

end Sys2Proof.Machine
end

