-- ==== Sys2Proof/Machine/Decoders.lean ====
section
/-! DEFINITION. The meanings of the three response decoders (42_response_decode.md R82, R84, R91). A decoder checks
nothing but the checksums (R93). -/

namespace Sys2Proof.Machine

/-- `DECODE_STATUS` (R82). -/
def execDecodeStatus (m l c : Byte) (s : State) : Host.Outcome State Fault Refusal :=
  accept s (decodeIfOk (groupOk s.cfg m l c) (statusResponse (wordOf m l)))

/-- `DECODE_MEAS` (R84): group 0 is the temperature, group 1 the humidity. -/
def execDecodeMeas (tm tl tc hm hl hc : Byte) (s : State) : Host.Outcome State Fault Refusal :=
  accept s (decodeIfOk (groupOk s.cfg tm tl tc && groupOk s.cfg hm hl hc)
    (measResponse s.cfg (wordOf tm tl) (wordOf hm hl)))

/-- `DECODE_SERIAL` (R91): group 0 is the high half, group 1 the low half. -/
def execDecodeSerial (am al ac bm bl bc : Byte) (s : State) : Host.Outcome State Fault Refusal :=
  accept s (decodeIfOk (groupOk s.cfg am al ac && groupOk s.cfg bm bl bc)
    (serialResponse (wordOf am al) (wordOf bm bl)))

end Sys2Proof.Machine
end

