-- ==== Sys2Proof/Machine/Encode.lean ====
section
/-! DEFINITION. The meanings of `ENCODE`, of its rows for one Command each, and of its reserved rows
(41_command_codec.md R73 to R75, R79). -/

namespace Sys2Proof.Machine

/-- `ENCODE` (R73): the ignored bits change nothing (R48). -/
def execEncode (cmd : BitVec 4) (_ignored : BitVec 48) (s : State) : Host.Outcome State Fault Refusal :=
  accept s (encodeSelector cmd)

/-- `ENCODE READ_STATUS` (R73). -/
def execEncodeReadStatus (s : State) : Host.Outcome State Fault Refusal :=
  accept s (encodeSelector 0x0)

/-- `ENCODE SOFT_RESET` (R73): it only produces the bytes, and resets nothing (R79). -/
def execEncodeSoftReset (s : State) : Host.Outcome State Fault Refusal :=
  accept s (encodeSelector 0x1)

/-- `ENCODE HEATER_ENABLE` (R73). -/
def execEncodeHeaterEnable (s : State) : Host.Outcome State Fault Refusal :=
  accept s (encodeSelector 0x2)

/-- `ENCODE HEATER_DISABLE` (R73). -/
def execEncodeHeaterDisable (s : State) : Host.Outcome State Fault Refusal :=
  accept s (encodeSelector 0x3)

/-- `ENCODE READ_SERIAL` (R73): the code is the configuration's `SERIAL_CMD`. -/
def execEncodeReadSerial (s : State) : Host.Outcome State Fault Refusal :=
  accept s (encodeSelector 0x4)

/-- `ENCODE MEASURE` (R73): the code is the configuration's `MEAS_CMD`. -/
def execEncodeMeasure (s : State) : Host.Outcome State Fault Refusal :=
  accept s (encodeSelector 0x5)

/-- `ENCODE` with `cmd` 0x6 or 0x7: ProtocolMisuse (R75). -/
def execEncodeReserved67 (low : BitVec 1) (s : State) : Host.Outcome State Fault Refusal :=
  accept s (encodeSelector ((3 : BitVec 3) ++ low))

/-- `ENCODE` with `cmd` 0x8 to 0xF: ProtocolMisuse (R75). -/
def execEncodeReserved8F (low : BitVec 3) (s : State) : Host.Outcome State Fault Refusal :=
  accept s (encodeSelector ((1 : BitVec 1) ++ low))

end Sys2Proof.Machine
end

