-- ==== Sys2Proof/Machine/Lookup.lean ====
section
/-! DEFINITION. The meanings of `DECODE_CMD` and of the wire-command rows, each of which is `DECODE_CMD` of its word
(41_command_codec.md R76; notes/assumptions/4.md). A word that encodes no Command under the configuration in force is
the result `cmd_valid = 0`, not an error (30_encoding.md R58). -/

namespace Sys2Proof.Machine

/-- `DECODE_CMD` (R76). -/
def execDecodeCmd (w0 w1 : Byte) (s : State) : Host.Outcome State Fault Refusal :=
  accept s (lookupWord (wordOf w0 w1))

/-- `DECODE_CMD` of READ_STATUS's wire word (R53, R76). -/
def execWireReadStatus (s : State) : Host.Outcome State Fault Refusal :=
  accept s (lookupWord readStatusCode)

/-- `DECODE_CMD` of SOFT_RESET's wire word (R53, R76). -/
def execWireSoftReset (s : State) : Host.Outcome State Fault Refusal :=
  accept s (lookupWord softResetCode)

/-- `DECODE_CMD` of HEATER_ENABLE's wire word (R53, R76). -/
def execWireHeaterEnable (s : State) : Host.Outcome State Fault Refusal :=
  accept s (lookupWord heaterEnableCode)

/-- `DECODE_CMD` of HEATER_DISABLE's wire word (R53, R76). -/
def execWireHeaterDisable (s : State) : Host.Outcome State Fault Refusal :=
  accept s (lookupWord heaterDisableCode)

/-- `DECODE_CMD` of a legal serial-number code: a Command only where the configuration chose it (R53, R58, R76). -/
def execWireReadSerial (code : Word) (s : State) : Host.Outcome State Fault Refusal :=
  accept s (lookupWord code)

/-- `DECODE_CMD` of a legal single-shot code: a Command only where the configuration chose it (R53, R58, R76). -/
def execWireMeasure (code : Word) (s : State) : Host.Outcome State Fault Refusal :=
  accept s (lookupWord code)

end Sys2Proof.Machine
end

