-- ==== Sys2Proof/Machine/Reserved.lean ====
section
/-! DEFINITION. The meanings of the reserved operation selectors: ProtocolMisuse, whatever the other fields hold
(30_encoding.md R49; 60_exceptions.md R98, R99). -/

namespace Sys2Proof.Machine

/-- `op = 0x7` (R49). -/
def execReservedOp7 (s : State) : Host.Outcome State Fault Refusal :=
  accept s raiseProtocolMisuse

/-- `op` from 0x8 to 0xF (R49). -/
def execReservedOp8F (_low : BitVec 3) (s : State) : Host.Outcome State Fault Refusal :=
  accept s raiseProtocolMisuse

end Sys2Proof.Machine
end

