-- ==== Sys2Proof/Machine/Dispatch.lean ====
section
/-! DEFINITION. What each instruction does: one arm per constructor (30_encoding.md R45, R46, R53). -/

namespace Sys2Proof.Machine

def exec (i : Instr) (s : State) : Host.Outcome State Fault Refusal :=
  match i with
  | .crc8 d0 d1 => Sys2Proof.Machine.execCrc8 d0 d1 s
  | .verify d0 d1 chk => Sys2Proof.Machine.execVerify d0 d1 chk s
  | .encode cmd ignored => Sys2Proof.Machine.execEncode cmd ignored s
  | .decodeCmd w0 w1 => Sys2Proof.Machine.execDecodeCmd w0 w1 s
  | .decodeStatus m l c => Sys2Proof.Machine.execDecodeStatus m l c s
  | .decodeMeas tm tl tc hm hl hc => Sys2Proof.Machine.execDecodeMeas tm tl tc hm hl hc s
  | .decodeSerial am al ac bm bl bc => Sys2Proof.Machine.execDecodeSerial am al ac bm bl bc s
  | .encodeReadStatus => Sys2Proof.Machine.execEncodeReadStatus s
  | .encodeSoftReset => Sys2Proof.Machine.execEncodeSoftReset s
  | .encodeHeaterEnable => Sys2Proof.Machine.execEncodeHeaterEnable s
  | .encodeHeaterDisable => Sys2Proof.Machine.execEncodeHeaterDisable s
  | .encodeReadSerial => Sys2Proof.Machine.execEncodeReadSerial s
  | .encodeMeasure => Sys2Proof.Machine.execEncodeMeasure s
  | .encodeReserved67 low => Sys2Proof.Machine.execEncodeReserved67 low s
  | .encodeReserved8F low => Sys2Proof.Machine.execEncodeReserved8F low s
  | .reservedOp7 => Sys2Proof.Machine.execReservedOp7 s
  | .reservedOp8F low => Sys2Proof.Machine.execReservedOp8F low s
  | .wireReadStatus => Sys2Proof.Machine.execWireReadStatus s
  | .wireSoftReset => Sys2Proof.Machine.execWireSoftReset s
  | .wireHeaterEnable => Sys2Proof.Machine.execWireHeaterEnable s
  | .wireHeaterDisable => Sys2Proof.Machine.execWireHeaterDisable s
  | .wireReadSerial code => Sys2Proof.Machine.execWireReadSerial code s
  | .wireMeasure code => Sys2Proof.Machine.execWireMeasure code s

end Sys2Proof.Machine
end

