-- ==== Sys2Proof/Machine/Step.lean ====
section
/-! DEFINITION. One step: the host's next move meets the block (10_state.md R17; 70_reset_and_hazards.md R110, R120). -/

namespace Sys2Proof.Machine

/-- One step. A request is decoded and run, a read samples a port, a reset is the reset event; each takes the move
from the host's list. The host may raise reset at any time between requests (R110), so a request made in `Faulted`
with a reset still to come is passed over, the block as it was, and the run goes on to that reset; with no reset to
come the block is stuck for ever (R100, R120; DEDUCED, notes/assumptions/7.md). Where the host has announced no move,
nothing changes: reset and requests are the only events that change the block (R110; DESIGN CHOICE,
notes/assumptions/2.md). A configuration that breaks a constraint has no meaning at all (R6). -/
def step (s : State) : Host.Outcome State Fault Refusal :=
  if legalConfig s.cfg then
    match s.moves with
    | [] => .next s
    | .request w :: rest =>
      if awaitsReset s.mode rest then .next { s with moves := rest }
      else exec (decode w) { s with moves := rest }
    | .read p :: rest => hostRead p { s with moves := rest }
    | .reset :: rest => .next (resetEvent { s with moves := rest })
  else .refused .illegalConfiguration

/-- `s` with the instruction of an opcode-table word as the host's next move (notes/assumptions/5.md). -/
def State.withFetchWord (s : State) (nbits w : Nat) : State :=
  { s with moves := .request (tableRequest nbits w) :: s.moves }

end Sys2Proof.Machine
end

