-- ==== Sys2Proof/Machine/Assembler.lean ====
section
/-! DEFINITION. The spec's assembler: its line forms and the request word each becomes (30_encoding.md R60, R61). A
line is held as its mnemonic and operands, not as text. -/

namespace Sys2Proof.Machine

/-- One line of assembler (R60), or the pseudo-instruction `ENCODE_HEATER e` (R61). Operands are the numbers as
written. -/
inductive AsmLine where
  | crc8 (d0 d1 : Nat)
  | verify (d0 d1 chk : Nat)
  | encodeCommand (c : Command)
  | encodeNumber (n : Nat)
  | decodeCmd (w0 w1 : Nat)
  | decodeStatus (m l c : Nat)
  | decodeMeas (tm tl tc hm hl hc : Nat)
  | decodeSerial (am al ac bm bl bc : Nat)
  | rawRequest (w : Nat)
  | encodeHeater (e : Nat)
  deriving DecidableEq, Repr

/-- A number as an unsigned field of `n` bits, none where it does not fit (R60: "a number from 0 to 255"). -/
def asmField (n v : Nat) : Option (BitVec n) :=
  if v < 2 ^ n then some (BitVec.ofNat n v) else none

/-- A request with the given selectors and operand bytes, none where an operand is no byte (R60). -/
def asmRequest (op cmd : BitVec 4) (v0 v1 v2 v3 v4 v5 : Nat) : Option Request := do
  let b0 ← asmField 8 v0
  let b1 ← asmField 8 v1
  let b2 ← asmField 8 v2
  let b3 ← asmField 8 v3
  let b4 ← asmField 8 v4
  let b5 ← asmField 8 v5
  return packRequest op cmd b0 b1 b2 b3 b4 b5

/-- The request word of a line (R60, R61): every field the form does not name is zero, and none is an assembly error,
which is no request. -/
def assemble : AsmLine → Option Request
  | .crc8 d0 d1 => asmRequest 0 0 d0 d1 0 0 0 0
  | .verify d0 d1 chk => asmRequest 1 0 d0 d1 chk 0 0 0
  | .encodeCommand c => some (encodeRequest (selectorOf c))
  | .encodeNumber n => (asmField 4 n).map encodeRequest
  | .decodeCmd w0 w1 => asmRequest 3 0 w0 w1 0 0 0 0
  | .decodeStatus m l c => asmRequest 4 0 m l c 0 0 0
  | .decodeMeas tm tl tc hm hl hc => asmRequest 5 0 tm tl tc hm hl hc
  | .decodeSerial am al ac bm bl bc => asmRequest 6 0 am al ac bm bl bc
  | .rawRequest w => asmField 56 w
  | .encodeHeater 0 => some (encodeRequest (selectorOf .heaterDisable))
  | .encodeHeater 1 => some (encodeRequest (selectorOf .heaterEnable))
  | .encodeHeater _ => none

end Sys2Proof.Machine
end

