-- ==== Sys2Proof/Machine/HostTable.lean ====
section
/-! DEFINITION. The tables the host works by: which groups a Command's response has and which decoder takes them
(30_encoding.md R55), and which Command each driver operation sends (41_command_codec.md R78). The driver itself is
outside the block (00_scope.md R4). -/

namespace Sys2Proof.Machine

/-- The driver's five operations (R78). -/
inductive DriverOperation where
  | readValues
  | readStatus
  | controlHeater (enabled : Bool)
  | readSerialNumber
  | softReset
  deriving DecidableEq, Repr

/-- The Command a driver operation sends (R78). -/
def driverCommand : DriverOperation → Command
  | .readValues => .measure
  | .readStatus => .readStatus
  | .controlHeater true => .heaterEnable
  | .controlHeater false => .heaterDisable
  | .readSerialNumber => .readSerial
  | .softReset => .softReset

/-- The `op` of the decoder that takes a Command's response, none where there is no response payload (R45, R55). -/
def decoderOp : Command → Option (BitVec 4)
  | .readStatus => some 4
  | .measure => some 5
  | .readSerial => some 6
  | .heaterEnable => none
  | .heaterDisable => none
  | .softReset => none

/-- The number of 3-byte groups in a Command's response (R54, R55). -/
def responseGroups (c : Command) : Nat := (responseLength c).toNat / 3

end Sys2Proof.Machine
end

