-- ==== Sys2Proof/Machine/Instances.lean ====
section
/-! DEFINITION. Several instances of the block (60_exceptions.md R108): each has its own state, and a step of one is a
step of that one alone. -/

namespace Sys2Proof.Machine

/-- A step of instance `k` among several: the others stay as they are (R108). -/
def stepInstance (blocks : List State) (k : Fin blocks.length) : Host.Outcome (List State) Fault Refusal :=
  match step blocks[k] with
  | .next s => .next (blocks.set k s)
  | .fault r => .fault r
  | .refused r => .refused r

end Sys2Proof.Machine
end

