-- ==== Sys2Proof/Safety.lean ====
section
/-! DEFINITION. The terms statements use: a state that accepts requests, the shapes a response can have
(30_encoding.md R51), the invariant of the machine, and how a run ends (70_reset_and_hazards.md R123). -/

namespace Sys2Proof.Machine

/-- A state in which the block accepts a request: the configuration is legal (R6) and the mode is `Ready` (R16,
R17). -/
structure State.Accepts (s : State) : Prop where
  legal : legalConfig s.cfg = true
  ready : s.mode = .ready

/-- The ports of a response that hold a value (R51). -/
def Response.presentPorts (r : Response) : List Port :=
  [Port.kind, .crc, .matched, .wire0, .wire1, .rlen, .cmdValid, .cmdOut, .status, .alertPending, .heaterActive,
    .checksumStatus, .rhAlert, .tAlert, .resetDetected, .commandStatus, .rawT, .rawRh, .temp, .hum, .serial].filter
    fun p => (portOf r p).isSome

/-- The fields written on `OK`, a row of R51 each; `DECODE_CMD` has two, with and without `cmd_out`. -/
def okShapes : List (List Port) :=
  [ [.kind, .crc],
    [.kind, .matched],
    [.kind, .wire0, .wire1, .rlen],
    [.kind, .cmdValid, .cmdOut],
    [.kind, .cmdValid],
    [.kind, .status, .alertPending, .heaterActive, .checksumStatus, .rhAlert, .tAlert, .resetDetected,
      .commandStatus],
    [.kind, .rawT, .rawRh, .temp, .hum],
    [.kind, .serial] ]

/-- The fields of a response are those R51 gives one operation: exactly a row's on `OK`, and only `kind` on an error
(R21, R92). -/
def Response.shaped (r : Response) : Prop :=
  if r.kind = .ok then r.presentPorts ∈ okShapes else r = blankResponse r.kind

/-- The fields an instruction writes on `OK`: its row of R51, where `valid` says whether `cmd_valid = 1`. The rows
that never answer `OK` have none (R49, R75). -/
def okPorts (valid : Bool) : Instr → List Port
  | .crc8 _ _ => [.kind, .crc]
  | .verify _ _ _ => [.kind, .matched]
  | .encode _ _ | .encodeReadStatus | .encodeSoftReset | .encodeHeaterEnable => [.kind, .wire0, .wire1, .rlen]
  | .encodeHeaterDisable | .encodeReadSerial | .encodeMeasure => [.kind, .wire0, .wire1, .rlen]
  | .decodeCmd _ _ | .wireReadStatus | .wireSoftReset | .wireHeaterEnable | .wireHeaterDisable =>
    if valid then [.kind, .cmdValid, .cmdOut] else [.kind, .cmdValid]
  | .wireReadSerial _ | .wireMeasure _ =>
    if valid then [.kind, .cmdValid, .cmdOut] else [.kind, .cmdValid]
  | .decodeStatus _ _ _ =>
    [.kind, .status, .alertPending, .heaterActive, .checksumStatus, .rhAlert, .tAlert, .resetDetected,
      .commandStatus]
  | .decodeMeas _ _ _ _ _ _ => [.kind, .rawT, .rawRh, .temp, .hum]
  | .decodeSerial _ _ _ _ _ _ => [.kind, .serial]
  | .encodeReserved67 _ | .encodeReserved8F _ | .reservedOp7 | .reservedOp8F _ => []

/-- How many operand bytes, from `b0` on, the operation of a selector reads (R47); a reserved selector reads none
(R49). -/
def bytesRead (op : BitVec 4) : Nat :=
  match op.toNat with
  | 0 | 3 => 2
  | 1 | 4 => 3
  | 5 | 6 => 6
  | _ => 0

/-- What every response the block leaves satisfies, under configuration `cfg`. -/
structure Response.Sound (cfg : Config) (r : Response) : Prop where
  /-- The fields are those of one operation (R21, R51). -/
  shaped : r.shaped
  /-- `cmd_out` holds a value exactly when `cmd_valid = 1` (R51, R76). -/
  cmdOutWhenValid : r.cmdOut.isSome = (r.cmdValid == some true)
  /-- `rlen` is 0, 3 or 6 (R19, R74). -/
  rlenValues : ∀ n, r.rlen = some n → n = 0 ∨ n = 3 ∨ n = 6
  /-- Each bit port is a copy of its bit of `status` (R83). -/
  statusBits : ∀ w, r.status = some w → r = statusResponse w
  /-- The readings are the conversions of the raw words, in the type of the conversion mode (R30, R84). -/
  readings : ∀ t rh, r.rawT = some t → r.rawRh = some rh → r = measResponse cfg t rh

/-- Whether a decoder's request has a group that fails verification, among the groups that decoder reads (R81, R96). -/
def failingGroup (cfg : Config) : Instr → Bool
  | .decodeStatus m l c => !groupOk cfg m l c
  | .decodeMeas tm tl tc hm hl hc => !(groupOk cfg tm tl tc && groupOk cfg hm hl hc)
  | .decodeSerial am al ac bm bl bc => !(groupOk cfg am al ac && groupOk cfg bm bl bc)
  | .crc8 _ _ | .verify _ _ _ | .encode _ _ | .decodeCmd _ _ => false
  | .encodeReadStatus | .encodeSoftReset | .encodeHeaterEnable => false
  | .encodeHeaterDisable | .encodeReadSerial | .encodeMeasure => false
  | .encodeReserved67 _ | .encodeReserved8F _ | .reservedOp7 | .reservedOp8F _ => false
  | .wireReadStatus | .wireSoftReset | .wireHeaterEnable | .wireHeaterDisable => false
  | .wireReadSerial _ | .wireMeasure _ => false

/-- Whether an instruction names something outside the block's defined set: `ENCODE` with `cmd > 0x5`, or a reserved
`op` (R98). -/
def outsideDefinedSet : Instr → Bool
  | .encode cmd _ => decide (5 < cmd.toNat)
  | .encodeReserved67 _ | .encodeReserved8F _ | .reservedOp7 | .reservedOp8F _ => true
  | .crc8 _ _ | .verify _ _ _ | .decodeCmd _ _ => false
  | .decodeStatus _ _ _ | .decodeMeas _ _ _ _ _ _ | .decodeSerial _ _ _ _ _ _ => false
  | .encodeReadStatus | .encodeSoftReset | .encodeHeaterEnable => false
  | .encodeHeaterDisable | .encodeReadSerial | .encodeMeasure => false
  | .wireReadStatus | .wireSoftReset | .wireHeaterEnable | .wireHeaterDisable => false
  | .wireReadSerial _ | .wireMeasure _ => false

/-- The invariant of the machine: the configuration is legal (R6), the response there is, is one an operation leaves,
and the mode is `Faulted` exactly when it is a ProtocolMisuse (R16, R17, R100). -/
structure State.Inv (s : State) : Prop where
  legal : legalConfig s.cfg = true
  sound : ∀ r, s.resp = some r → r.Sound s.cfg
  faulted : s.mode = .faulted ↔ s.resp.map (·.kind) = some .protocolMisuse

/-- `k` steps of a run, stopping at the first fault or refusal (R123). -/
def State.run : Nat → State → Host.Outcome State Fault Refusal
  | 0, s => .next s
  | k + 1, s =>
    match step s with
    | .next t => State.run k t
    | .fault r => .fault r
    | .refused r => .refused r

/-- A run of the block to the end of what the host announced, one step a move (R123). -/
def State.runToEnd (s : State) : Host.Outcome State Fault Refusal := State.run s.moves.length s

/-- A run has faulted when it reached `Faulted` at some move or read ⊥ (R123); a request that meets the block in
`Faulted` (R100) has reached it before. -/
def State.HasFaulted (s : State) : Prop :=
  ∃ (k : Nat) (u : State), k ≤ s.moves.length ∧ State.run k s = .next u ∧
    (u.mode = .faulted ∨ ∃ p, step u = .fault (.readOfNoValue p))

/-- A run has ended well when it came to its end with no read of ⊥ and the mode is `Ready` there (R123), having been
`Ready` throughout: a run that reaches `Faulted` is never finished (R100; DEDUCED, notes/assumptions/9.md). -/
def State.EndsWell (s : State) : Prop :=
  (∃ t, s.runToEnd = .next t ∧ t.mode = .ready) ∧
    ∀ (k : Nat) (u : State), k ≤ s.moves.length → State.run k s = .next u → u.mode ≠ .faulted

end Sys2Proof.Machine
end

