-- ==== Sys2Proof/WellFormed.lean ====
section
/-! DEFINITION. Which instructions are well formed. Every operand type already has exactly the values its field can
hold (30_encoding.md R44), so what is left to check is that a constructor's operands are on its own row of the opcode
table and on no narrower one. -/

namespace Sys2Proof

/-- An instruction is well formed when it is the one constructor its request decodes to:
a generic ENCODE has some ignored bit set (R48), a generic DECODE_CMD carries no word of a wire-command row, and the
two wire-command rows of a parameter carry one of its legal values (R5, R53). -/
def Instr.wellFormed : Instr → Bool
  | .encode _ ignored => ignored != 0
  | .decodeCmd w0 w1 => !(tableWireCodes.contains ((w0 ++ w1 : Word)))
  | .wireReadSerial code => serialCodes.contains code
  | .wireMeasure code => measCodes.contains code
  | .crc8 _ _ | .verify _ _ _ | .decodeStatus _ _ _ => true
  | .decodeMeas _ _ _ _ _ _ | .decodeSerial _ _ _ _ _ _ => true
  | .encodeReadStatus | .encodeSoftReset | .encodeHeaterEnable => true
  | .encodeHeaterDisable | .encodeReadSerial | .encodeMeasure => true
  | .encodeReserved67 _ | .encodeReserved8F _ | .reservedOp7 | .reservedOp8F _ => true
  | .wireReadStatus | .wireSoftReset | .wireHeaterEnable | .wireHeaterDisable => true

end Sys2Proof
end

