-- ==== Sys2Proof/Certificates/Slice0/Obligations.lean ====
section
/-! DEFINITION. The statements for the provers. Each docstring names the sentence of the spec it formalises. Every
statement about an instruction is for every state that accepts requests (`State.Accepts`: a legal configuration, mode
`Ready`), so for every legal configuration, and its next state is written out whole: what is not named is unchanged. -/

open Sys2Proof Sys2Proof.Machine

/-! ## The Checksum Unit (40_checksum.md) -/

/-- R66 with the checksum function of R65, for every configuration: the accumulator starts from `CRC_INIT`, absorbs
the two bytes in wire order, and `CRC_XOROUT` is XORed in at the end. The two corner cases that R66 marks as derived
are `Crc8CornerCases`. -/
def Obligations.Crc8ComputesTheChecksum : Prop :=
  (∀ (poly init xorOut : Byte) (cfg : Config) (d0 d1 : Byte),
    crc8 { cfg with crcPoly := poly, crcInit := init, crcXorOut := xorOut } d0 d1 =
      crc8Update poly (crc8Update poly init d0) d1 ^^^ xorOut) ∧
  (∀ s : State, s.Accepts → ∀ d0 d1 : Byte,
    exec (.crc8 d0 d1) s = .next { s with
      resp := some { blankResponse .ok with crc := some (crc8 s.cfg d0 d1) } }) ∧
  (∀ w : Request, reqOp w = 0x0 → decode w = .crc8 (reqByte w 0) (reqByte w 1)) ∧
  (∀ s : State, legalConfig s.cfg = true → s.mode = .faulted → ∀ d0 d1 : Byte,
    exec (.crc8 d0 d1) s = .fault .stuckInFaulted) ∧
  (∀ s : State, s.Accepts → s.cfg = Config.default →
    exec (decode 0x00BEEF00000000) s = .next { s with
      resp := some { blankResponse .ok with crc := some 0x92 } })

/-- The corner cases of R66 that the spec marks as its own enumeration and inference: at the default configuration
each of the 256 results comes from exactly 256 inputs, and neither the all-zero nor the all-one group passes. -/
def Obligations.Crc8CornerCases : Prop :=
  (∀ c : Byte, Set.ncard {p : Byte × Byte | crc8 Config.default p.1 p.2 = c} = 256) ∧
  ∀ s : State, s.Accepts → s.cfg = Config.default →
    exec (.crc8 0x00 0x00) s = .next { s with resp := some { blankResponse .ok with crc := some 0x81 } } ∧
    exec (.crc8 0xFF 0xFF) s = .next { s with resp := some { blankResponse .ok with crc := some 0xAC } } ∧
    exec (.verify 0x00 0x00 0x00) s = .next { s with
      resp := some { blankResponse .ok with matched := some false } } ∧
    exec (.verify 0xFF 0xFF 0xFF) s = .next { s with
      resp := some { blankResponse .ok with matched := some false } }

/-- R67, whole but for the corner case that the rule marks as derived, which `VerifyDetectsEveryWrongCheckByte`
covers. A mismatch is a result, not an error: `kind = OK` in both cases. -/
def Obligations.VerifyComparesTheCheckByte : Prop :=
  (∀ s : State, s.Accepts → ∀ d0 d1 chk : Byte,
    exec (.verify d0 d1 chk) s = .next { s with
      resp := some { blankResponse .ok with matched := some (decide (crc8 s.cfg d0 d1 = chk)) } }) ∧
  (∀ w : Request, reqOp w = 0x1 → decode w = .verify (reqByte w 0) (reqByte w 1) (reqByte w 2)) ∧
  (∀ s : State, s.Accepts → s.cfg = Config.default →
    exec (.verify 0x00 0x00 0x00) s = .next { s with
      resp := some { blankResponse .ok with matched := some false } } ∧
    exec (.verify 0xBE 0xEF 0x92) s = .next { s with
      resp := some { blankResponse .ok with matched := some true } } ∧
    exec (.verify 0xBE 0xEF 0x93) s = .next { s with
      resp := some { blankResponse .ok with matched := some false } })

/-- What R63 says the parameters are and R64 computes: absorbing a byte multiplies the accumulator, XORed with that
byte, by x^8, modulo the generator x^8 + `CRC_POLY`, over GF(2). The reading of a byte as a polynomial is `f`. -/
def Obligations.ChecksumIsTheRemainderByTheGenerator : Prop :=
  ∀ f : Byte → Polynomial (ZMod 2),
    (∀ b, f b = ∑ i ∈ Finset.range 8, if b.getLsbD i then Polynomial.X ^ i else 0) →
    ∀ poly c d : Byte,
      (Polynomial.X ^ 8 + f poly) ∣ f (crc8Update poly c d) - f (c ^^^ d) * Polynomial.X ^ 8

/-- The law of R69, which the spec marks as its own inference: `crc8` is affine in its 16 input bits, every shift is
a logical shift of an 8-bit value, and with `CRC_XOROUT = 0x00` a group followed by its own check byte leaves the
accumulator at 0. -/
def Obligations.ChecksumIsAffineWithZeroResidue : Prop :=
  (∀ (cfg : Config) (u0 u1 v0 v1 : Byte),
    crc8 cfg (u0 ^^^ v0) (u1 ^^^ v1) = crc8 cfg u0 u1 ^^^ crc8 cfg v0 v1 ^^^ crc8 cfg 0x00 0x00) ∧
  (∀ poly c : Byte,
    (crcShift poly c).toNat = (2 * c.toNat % 256) ^^^ (if 128 ≤ c.toNat then poly.toNat else 0)) ∧
  (∀ cfg : Config, cfg.crcXorOut = 0x00 → ∀ d0 d1 : Byte,
    crc8Update cfg.crcPoly
      (crc8Update cfg.crcPoly (crc8Update cfg.crcPoly cfg.crcInit d0) d1) (crc8 cfg d0 d1) = 0x00)

/-- The law of R68, which the spec marks as its own inference: VERIFY passes the right check byte and no other, under
every legal configuration. -/
def Obligations.VerifyDetectsEveryWrongCheckByte : Prop :=
  ∀ s : State, s.Accepts → ∀ d0 d1 : Byte,
    exec (.verify d0 d1 (crc8 s.cfg d0 d1)) s = .next { s with
      resp := some { blankResponse .ok with matched := some true } } ∧
    ∀ e : Byte, e ≠ 0 →
      exec (.verify d0 d1 (crc8 s.cfg d0 d1 ^^^ e)) s = .next { s with
        resp := some { blankResponse .ok with matched := some false } }

/-- The detection strength of R70, which the spec marks as its own enumeration at the default configuration. A group
is 24 bits, `ok` says whether it passes verification, `weight` counts the bits of an error pattern. -/
def Obligations.GroupCodeHasMinimumDistanceFour : Prop :=
  ∀ (ok : BitVec 24 → Bool) (weight : BitVec 24 → Nat),
    (∀ g, ok g = groupOk Config.default (g.extractLsb' 16 8) (g.extractLsb' 8 8) (g.extractLsb' 0 8)) →
    (∀ e, weight e = ((List.range 24).filter fun i => e.getLsbD i).length) →
    (∀ g e : BitVec 24, ok g = true → e ≠ 0 →
      weight e ≤ 3 ∨ weight e % 2 = 1 ∨ (∃ (p : Byte) (k : Nat), e = p.zeroExtend 24 <<< k) →
      ok (g ^^^ e) = false) ∧
    (∃ g e : BitVec 24, ok g = true ∧ weight e = 4 ∧ ok (g ^^^ e) = true) ∧
    Set.ncard {e : BitVec 24 | weight e = 4 ∧ ∀ g, ok g = true → ok (g ^^^ e) = true} = 80

/-- R71: the command side never uses the Checksum Unit. Two configurations that differ in the checksum's three
parameters alone give every ENCODE and every DECODE_CMD the same response. -/
def Obligations.CommandSideNeverUsesTheChecksum : Prop :=
  ∀ (s : State) (poly init xorOut : Byte), s.Accepts → poly.getLsbD 0 = true →
    ∀ i : Instr, i ∈ [.encodeReadStatus, .encodeSoftReset, .encodeHeaterEnable, .encodeHeaterDisable,
        .encodeReadSerial, .encodeMeasure, .wireReadStatus, .wireSoftReset, .wireHeaterEnable, .wireHeaterDisable] ∨
      (∃ cmd ignored, i = .encode cmd ignored) ∨ (∃ w0 w1, i = .decodeCmd w0 w1) ∨
      (∃ code, i = .wireReadSerial code) ∨ (∃ code, i = .wireMeasure code) →
    ∃ t u : State, exec i s = .next t ∧
      exec i { s with cfg := { s.cfg with crcPoly := poly, crcInit := init, crcXorOut := xorOut } } = .next u ∧
      u.resp = t.resp ∧ u.mode = t.mode

/-! ## The Command side of the codec (41_command_codec.md) -/

/-- ENCODE of every `cmd` value of the Command set, in the general form whose ignored bits are arbitrary: the two
bytes of the wire code, most significant first, and the response length (41_command_codec.md section 2, the
pseudocode of ENCODE). -/
def Obligations.EncodeProducesTheWireSequence : Prop :=
  ∀ s : State, s.Accepts → ∀ (cmd : BitVec 4) (ignored : BitVec 48), cmd.toNat ≤ 5 →
    ∃ c : Command, selectorOf c = cmd ∧
      exec (.encode cmd ignored) s = .next { s with
        resp := some { blankResponse .ok with
          wire0 := some ((wireCode s.cfg c).extractLsb' 8 8)
          wire1 := some ((wireCode s.cfg c).extractLsb' 0 8)
          rlen  := some (responseLength c) } }

/-- R32 and R74 on the six rows of ENCODE: the wire bytes, most significant first, and the response length of each
Command. The two codes that are parameters are the configuration's. The numeric wire codes are those of the table of
30_encoding.md section 3. -/
def Obligations.CommandRowsProduceTheirBytesAndLength : Prop :=
  ∀ s : State, s.Accepts →
    exec .encodeReadStatus s = .next { s with
      resp := some { blankResponse .ok with wire0 := some 0xF3, wire1 := some 0x2D, rlen := some 3 } } ∧
    exec .encodeSoftReset s = .next { s with
      resp := some { blankResponse .ok with wire0 := some 0x30, wire1 := some 0xA2, rlen := some 0 } } ∧
    exec .encodeHeaterEnable s = .next { s with
      resp := some { blankResponse .ok with wire0 := some 0x30, wire1 := some 0x6D, rlen := some 0 } } ∧
    exec .encodeHeaterDisable s = .next { s with
      resp := some { blankResponse .ok with wire0 := some 0x30, wire1 := some 0x66, rlen := some 0 } } ∧
    exec .encodeReadSerial s = .next { s with
      resp := some { blankResponse .ok with
        wire0 := some (s.cfg.serialCmd.extractLsb' 8 8)
        wire1 := some (s.cfg.serialCmd.extractLsb' 0 8)
        rlen  := some 6 } } ∧
    exec .encodeMeasure s = .next { s with
      resp := some { blankResponse .ok with
        wire0 := some (s.cfg.measCmd.extractLsb' 8 8)
        wire1 := some (s.cfg.measCmd.extractLsb' 0 8)
        rlen  := some 6 } }

/-- R75 with the effect R99 gives the error: `PROTOCOL_MISUSE`, every other field ⊥, so no wire byte, and the block
`Faulted`; for the general ENCODE and for both reserved rows, which every request with such a `cmd` is on. -/
def Obligations.UndefinedVariantIsProtocolMisuse : Prop :=
  (∀ s : State, s.Accepts →
    (∀ (cmd : BitVec 4) (ignored : BitVec 48), 6 ≤ cmd.toNat →
      exec (.encode cmd ignored) s = .next { s with
        resp := some (blankResponse .protocolMisuse), mode := .faulted }) ∧
    (∀ low : BitVec 1, exec (.encodeReserved67 low) s = .next { s with
      resp := some (blankResponse .protocolMisuse), mode := .faulted }) ∧
    (∀ low : BitVec 3, exec (.encodeReserved8F low) s = .next { s with
      resp := some (blankResponse .protocolMisuse), mode := .faulted })) ∧
  (∀ w : Request, reqOp w = 0x2 → 6 ≤ (reqCmd w).toNat →
    decode w = .encode (reqCmd w) (reqBytes w) ∨
    (∃ low, decode w = .encodeReserved67 low) ∨ (∃ low, decode w = .encodeReserved8F low))

/-- R76, whole: the lookup answers the one Command whose code is the word, if there is one, and is never an error.
DECODE_CMD requests go to the row of their word or to DECODE_CMD's own row, and every one of them is DECODE_CMD of
its word. -/
def Obligations.DecodeCmdLooksUpTheWord : Prop :=
  (∀ s : State, s.Accepts → ∀ w0 w1 : Byte,
    (∀ c : Command, wireCode s.cfg c = w0 ++ w1 →
      exec (.decodeCmd w0 w1) s = .next { s with
        resp := some { blankResponse .ok with cmdValid := some true, cmdOut := some (selectorOf c) } }) ∧
    ((∀ c : Command, wireCode s.cfg c ≠ w0 ++ w1) →
      exec (.decodeCmd w0 w1) s = .next { s with
        resp := some { blankResponse .ok with cmdValid := some false } })) ∧
  (∀ cfg : Config, legalConfig cfg = true → ∀ a b : Command, wireCode cfg a = wireCode cfg b → a = b) ∧
  (∀ (s : State) (w : Request), reqOp w = 0x3 →
    exec (decode w) s = exec (.decodeCmd (reqByte w 0) (reqByte w 1)) s) ∧
  (∀ s : State, s.Accepts → ∀ b : Byte, b = 0x00 ∨ b = 0xFF →
    exec (.decodeCmd b b) s = .next { s with
      resp := some { blankResponse .ok with cmdValid := some false } }) ∧
  (∀ s : State, s.Accepts → s.cfg = Config.default →
    exec (.decodeCmd 0x24 0x00) s = .next { s with
      resp := some { blankResponse .ok with cmdValid := some false } } ∧
    exec (.decodeCmd 0x30 0xA2) s = .next { s with
      resp := some { blankResponse .ok with cmdValid := some true, cmdOut := some 0x1 } })

/-- The six wire-command rows of the opcode table, as DECODE_CMD takes them (notes/assumptions/4.md): the four fixed
codes are always Commands, and a code of a parameter is one exactly where the configuration chose it. -/
def Obligations.WireRowsLookUpTheirWord : Prop :=
  ∀ s : State, s.Accepts →
    exec .wireReadStatus s = .next { s with
      resp := some { blankResponse .ok with cmdValid := some true, cmdOut := some 0 } } ∧
    exec .wireSoftReset s = .next { s with
      resp := some { blankResponse .ok with cmdValid := some true, cmdOut := some 1 } } ∧
    exec .wireHeaterEnable s = .next { s with
      resp := some { blankResponse .ok with cmdValid := some true, cmdOut := some 2 } } ∧
    exec .wireHeaterDisable s = .next { s with
      resp := some { blankResponse .ok with cmdValid := some true, cmdOut := some 3 } } ∧
    (∀ code : Word, (Instr.wireReadSerial code).wellFormed = true →
      exec (.wireReadSerial code) s = .next { s with
        resp := some (if code = s.cfg.serialCmd
          then { blankResponse .ok with cmdValid := some true, cmdOut := some 4 }
          else { blankResponse .ok with cmdValid := some false }) }) ∧
    (∀ code : Word, (Instr.wireMeasure code).wellFormed = true →
      exec (.wireMeasure code) s = .next { s with
        resp := some (if code = s.cfg.measCmd
          then { blankResponse .ok with cmdValid := some true, cmdOut := some 5 }
          else { blankResponse .ok with cmdValid := some false }) })

/-- The round trip of R77, which the spec marks as its own inference from the distinctness of the wire codes: what
ENCODE produces for a selector, DECODE_CMD maps back to that selector, in the state ENCODE leaves; and different
selectors give different bytes. -/
def Obligations.EncodedCommandDecodesToItsSelector : Prop :=
  ∀ s : State, s.Accepts → ∀ (cmd : BitVec 4) (ignored : BitVec 48), cmd.toNat ≤ 5 →
    ∃ (t : State) (r : Response) (w0 w1 : Byte), exec (.encode cmd ignored) s = .next t ∧ t.resp = some r ∧
      r.kind = .ok ∧ r.wire0 = some w0 ∧ r.wire1 = some w1 ∧
      exec (.decodeCmd w0 w1) t = .next { t with
        resp := some { blankResponse .ok with cmdValid := some true, cmdOut := some cmd } } ∧
      ∀ (cmd' : BitVec 4) (t' : State) (r' : Response), cmd'.toNat ≤ 5 → cmd' ≠ cmd →
        exec (.encode cmd' ignored) s = .next t' → t'.resp = some r' →
        ¬(r'.wire0 = some w0 ∧ r'.wire1 = some w1)

/-- R79, which the spec marks as its own inference: ENCODE SOFT_RESET produces the two bytes and changes nothing else
but the response it replaces; it is not the reset event. -/
def Obligations.EncodeSoftResetDoesNotResetTheBlock : Prop :=
  ∀ s : State, s.Accepts →
    ∃ t : State, exec .encodeSoftReset s = .next t ∧ t.mode = s.mode ∧ t.cfg = s.cfg ∧ t.moves = s.moves ∧
      t.resp = some { blankResponse .ok with wire0 := some 0x30, wire1 := some 0xA2, rlen := some 0 } ∧
      t ≠ resetEvent s

/-- R78 with the table of R55: which Command each driver operation sends and which decoder takes its response. The
decoder of a Command is named by the instruction that its `op` decodes to, it reads exactly the bytes ENCODE
announces, in groups of three, and the Commands of no response have none. -/
def Obligations.EachCommandsDecoderReadsItsResponse : Prop :=
  (driverCommand .readValues = .measure ∧ driverCommand .readStatus = .readStatus ∧
    driverCommand (.controlHeater true) = .heaterEnable ∧ driverCommand (.controlHeater false) = .heaterDisable ∧
    driverCommand .readSerialNumber = .readSerial ∧ driverCommand .softReset = .softReset) ∧
  (decoderOp .readStatus = some 0x4 ∧ decoderOp .measure = some 0x5 ∧ decoderOp .readSerial = some 0x6 ∧
    decoderOp .heaterEnable = none ∧ decoderOp .heaterDisable = none ∧ decoderOp .softReset = none) ∧
  (∀ w : Request,
    (decoderOp .readStatus = some (reqOp w) →
      decode w = .decodeStatus (reqByte w 0) (reqByte w 1) (reqByte w 2)) ∧
    (decoderOp .measure = some (reqOp w) → decode w =
      .decodeMeas (reqByte w 0) (reqByte w 1) (reqByte w 2) (reqByte w 3) (reqByte w 4) (reqByte w 5)) ∧
    (decoderOp .readSerial = some (reqOp w) → decode w =
      .decodeSerial (reqByte w 0) (reqByte w 1) (reqByte w 2) (reqByte w 3) (reqByte w 4) (reqByte w 5))) ∧
  (∀ c : Command, (responseLength c).toNat = 3 * responseGroups c) ∧
  (∀ c : Command, decoderOp c = none ↔ responseLength c = 0) ∧
  (∀ (c : Command) (op : BitVec 4), decoderOp c = some op → bytesRead op = (responseLength c).toNat) ∧
  (∀ c : Command, ∃ o : DriverOperation, driverCommand o = c)

/-! ## The response decoders (42_response_decode.md) -/

/-- R82 and R83, whole. -/
def Obligations.DecodeStatusDecodesItsGroup : Prop :=
  (∀ s : State, s.Accepts → ∀ m l c : Byte,
    (crc8 s.cfg m l = c → ∀ w : Word, w = m ++ l →
      exec (.decodeStatus m l c) s = .next { s with
        resp := some { blankResponse .ok with
          status         := some w
          alertPending   := some (w.getLsbD 15)
          heaterActive   := some (w.getLsbD 13)
          rhAlert        := some (w.getLsbD 11)
          tAlert         := some (w.getLsbD 10)
          resetDetected  := some (w.getLsbD 4)
          commandStatus  := some (w.getLsbD 1)
          checksumStatus := some (w.getLsbD 0) } }) ∧
    (crc8 s.cfg m l ≠ c →
      exec (.decodeStatus m l c) s = .next { s with resp := some (blankResponse .checksumMismatch) })) ∧
  (∀ w : Request, reqOp w = 0x4 → decode w = .decodeStatus (reqByte w 0) (reqByte w 1) (reqByte w 2)) ∧
  (∀ s : State, s.Accepts → s.cfg = Config.default →
    exec (.decodeStatus 0x00 0x00 0x81) s = .next { s with
      resp := some { blankResponse .ok with
        status := some 0x0000, alertPending := some false, heaterActive := some false, rhAlert := some false
        tAlert := some false, resetDetected := some false, commandStatus := some false
        checksumStatus := some false } } ∧
    exec (.decodeStatus 0x00 0x00 0x00) s = .next { s with resp := some (blankResponse .checksumMismatch) } ∧
    exec (.decodeStatus 0x80 0x10 0xE1) s = .next { s with
      resp := some { blankResponse .ok with
        status := some 0x8010, alertPending := some true, heaterActive := some false, rhAlert := some false
        tAlert := some false, resetDetected := some true, commandStatus := some false
        checksumStatus := some false } })

/-- R57: the reserved bits 14, 12, 9:5 and 3:2 are copied into `status` and change nothing else: a group that passes
is accepted whatever they hold, and two words that agree on the named bits give the same seven bit ports. -/
def Obligations.ReservedStatusBitsAreCopiedUnchecked : Prop :=
  ∀ s : State, s.Accepts → ∀ (m l : Byte) (reserved : Word), reserved &&& 0xAC13 = 0 →
    ∃ (t u : State) (r : Response),
      exec (.decodeStatus m l (crc8 s.cfg m l)) s = .next t ∧ t.resp = some r ∧ r.status = some (m ++ l) ∧
      r.kind = .ok ∧
      (∀ m' l' : Byte, (m' ++ l' : Word) = (m ++ l) ^^^ reserved →
        exec (.decodeStatus m' l' (crc8 s.cfg m' l')) s = .next u ∧
        u.resp = some { r with status := some ((m ++ l) ^^^ reserved) })

/-- R84, whole: the temperature is group 0 and the humidity group 1, both groups must pass, and the two readings are
the conversions of the raw words in the configuration's mode. -/
def Obligations.DecodeMeasDecodesTwoGroups : Prop :=
  (∀ s : State, s.Accepts → ∀ tm tl tc hm hl hc : Byte,
    (crc8 s.cfg tm tl = tc ∧ crc8 s.cfg hm hl = hc →
      exec (.decodeMeas tm tl tc hm hl hc) s = .next { s with
        resp := some { blankResponse .ok with
          rawT  := some (tm ++ tl)
          rawRh := some (hm ++ hl)
          temp  := some (temperature s.cfg.convMode (tm ++ tl))
          hum   := some (humidity s.cfg.convMode (hm ++ hl)) } }) ∧
    (¬(crc8 s.cfg tm tl = tc ∧ crc8 s.cfg hm hl = hc) →
      exec (.decodeMeas tm tl tc hm hl hc) s = .next { s with
        resp := some (blankResponse .checksumMismatch) })) ∧
  (∀ w : Request, reqOp w = 0x5 → decode w =
    .decodeMeas (reqByte w 0) (reqByte w 1) (reqByte w 2) (reqByte w 3) (reqByte w 4) (reqByte w 5)) ∧
  (∀ m : ConvMode,
    (temperature m 0x0000).value = some (-45) ∧ (temperature m 0xFFFF).value = some 130 ∧
    (humidity m 0xFFFF).value = some 100 ∧
    (temperature m 0x6666).value = some 25 ∧ (humidity m 0x6666).value = some 40) ∧
  groupOk Config.default 0x66 0x66 0x93 = true

/-- R91, whole: the first group is the high half, both groups must pass, and no half is returned alone. -/
def Obligations.DecodeSerialDecodesTwoGroups : Prop :=
  (∀ s : State, s.Accepts → ∀ am al ac bm bl bc : Byte,
    (crc8 s.cfg am al = ac ∧ crc8 s.cfg bm bl = bc →
      exec (.decodeSerial am al ac bm bl bc) s = .next { s with
        resp := some { blankResponse .ok with
          serial := some (BitVec.ofNat 32 (((am.toNat * 256 + al.toNat) * 256 + bm.toNat) * 256 + bl.toNat)) } }) ∧
    (¬(crc8 s.cfg am al = ac ∧ crc8 s.cfg bm bl = bc) →
      exec (.decodeSerial am al ac bm bl bc) s = .next { s with
        resp := some (blankResponse .checksumMismatch) })) ∧
  (∀ w : Request, reqOp w = 0x6 → decode w =
    .decodeSerial (reqByte w 0) (reqByte w 1) (reqByte w 2) (reqByte w 3) (reqByte w 4) (reqByte w 5)) ∧
  (∀ s : State, s.Accepts → s.cfg = Config.default →
    exec (.decodeSerial 0x00 0x00 0x81 0x00 0x00 0x81) s = .next { s with
      resp := some { blankResponse .ok with serial := some 0x00000000 } } ∧
    exec (.decodeSerial 0x12 0x34 0x37 0x56 0x78 0x7D) s = .next { s with
      resp := some { blankResponse .ok with serial := some 0x12345678 } })

/-- R92: a decoder's response is all or nothing. If a group it reads fails, only `kind` is written; if every group
passes, every payload field of its row is, and no other. -/
def Obligations.DecoderResponsesAreAllOrNothing : Prop :=
  ∀ s : State, s.Accepts → ∀ i : Instr,
    (∃ m l c, i = .decodeStatus m l c) ∨ (∃ tm tl tc hm hl hc, i = .decodeMeas tm tl tc hm hl hc) ∨
      (∃ am al ac bm bl bc, i = .decodeSerial am al ac bm bl bc) →
    ∃ (t : State) (r : Response), exec i s = .next t ∧ t.resp = some r ∧ t.mode = s.mode ∧
      (failingGroup s.cfg i = true → r.kind = .checksumMismatch ∧ r.presentPorts = [.kind]) ∧
      (failingGroup s.cfg i = false → r.kind = .ok ∧ r.presentPorts = okPorts true i)

/-- R97: what `raise ChecksumMismatch()` leaves, for each decoder and each group that can fail. -/
def Obligations.ChecksumMismatchLeavesItsKindAlone : Prop :=
  ∀ s : State, s.Accepts → ∀ i : Instr, failingGroup s.cfg i = true →
    exec i s = .next { s with resp := some (blankResponse .checksumMismatch) }

/-- R96 and R105 on ChecksumMismatch: it is not sticky. The next request runs as if the failed one had not been made.
-/
def Obligations.ChecksumMismatchIsNotSticky : Prop :=
  ∀ (i j : Instr) (s t : State) (r : Response), exec i s = .next t → t.resp = some r →
    r.kind = .checksumMismatch → t.mode = .ready ∧ exec j t = exec j s

/-! ## The conversions (42_response_decode.md section 3) -/

/-- R85 and R86: the exact conversions, with their range, as DECODE_MEAS leaves them in `Exact` mode. -/
def Obligations.ExactConversionsAreTheDocumentsFormulas : Prop :=
  ∀ s : State, s.Accepts → s.cfg.convMode = .exact → ∀ tm tl hm hl : Byte,
    ∃ (t : State) (r : Response) (T RH : Rat),
      exec (.decodeMeas tm tl (crc8 s.cfg tm tl) hm hl (crc8 s.cfg hm hl)) s = .next t ∧ t.resp = some r ∧
      r.temp = some (.exact T) ∧ r.hum = some (.exact RH) ∧
      T = -45 + 175 * ((tm ++ tl : Word).toNat : Rat) / 65535 ∧ -45 ≤ T ∧ T ≤ 130 ∧
      RH = min (max (100 * ((hm ++ hl : Word).toNat : Rat) / 65535) 0) 100

/-- The rounding of 00_scope.md section 4: `fl64 x` is a binary64 value, none is nearer to x, and of two equally near
ones it is the even one. `B y` says that y is a binary64 value, subnormals included, with no bound on the exponent
from above (the model's reading, DEDUCED, notes/assumptions/8.md: no value of the block comes near that bound). -/
def Obligations.Fl64IsNearestTiesToEven : Prop :=
  ∀ B : Rat → Prop,
    (∀ y, B y ↔ ∃ m k : Int, |m| ≤ 2 ^ 53 ∧ -1074 ≤ k ∧ y = (m : Rat) * (2 : Rat) ^ k) →
    ∀ x : Rat, B (fl64 x) ∧
      (∀ y, B y → |x - fl64 x| ≤ |x - y|) ∧
      (∀ y, B y → y ≠ fl64 x → |x - y| = |x - fl64 x| →
        ∃ m k : Int, Even m ∧ -1074 ≤ k ∧ fl64 x = (m : Rat) * (2 : Rat) ^ k ∧
          (y = ((m + 1 : Int) : Rat) * (2 : Rat) ^ k ∨ y = ((m - 1 : Int) : Rat) * (2 : Rat) ^ k))

/-- The 64 bits of a rounded value stand for that value, over the whole finite range up to 2^1023: sign, exponent and
fraction are where IEEE 754 puts them. -/
def Obligations.PackedBitsHoldTheRoundedValue : Prop :=
  ∀ x : Rat, |x| ≤ 2 ^ 1023 → binary64Value (packBinary64 (fl64 x)) = some (fl64 x)

/-- R30 with R85 to R88: the readings have the type of the conversion mode, and stand for the value that mode
defines; in the binary64 modes that value is finite. -/
def Obligations.ReadingsHaveTheTypeAndValueOfTheirMode : Prop :=
  ∀ r : Word,
    temperature .exact r = .exact (temperatureExact r.toNat) ∧
    humidity .exact r = .exact (humidityExact r.toNat) ∧
    (∀ m : ConvMode, m ≠ .exact → ∃ bt bh : BitVec 64, temperature m r = .binary64 bt ∧ humidity m r = .binary64 bh) ∧
    (temperature .seq64 r).value = some (fl64 (-45 + fl64 (175 * fl64 ((r.toNat : Rat) / 65535)))) ∧
    (humidity .seq64 r).value = some (min (max (fl64 (100 * fl64 ((r.toNat : Rat) / 65535))) 0) 100) ∧
    (temperature .cr64 r).value = some (fl64 (-45 + 175 * (r.toNat : Rat) / 65535)) ∧
    (humidity .cr64 r).value = some (fl64 (min (max (100 * (r.toNat : Rat) / 65535) 0) 100))

/-- R89, which the spec marks as its own enumeration: the endpoints in every mode, strict monotonicity in every mode,
and the largest distance from the exact temperature in the two binary64 modes. -/
def Obligations.ConversionsAreMonotoneAndAccurate : Prop :=
  ∀ m : ConvMode, ∃ T RH : Word → Rat,
    (∀ r, (temperature m r).value = some (T r) ∧ (humidity m r).value = some (RH r)) ∧
    T 0 = -45 ∧ T 0xFFFF = 130 ∧ RH 0 = 0 ∧ RH 0xFFFF = 100 ∧
    (∀ r q : Word, r < q → T r < T q ∧ RH r < RH q) ∧
    (∀ r, m = .exact → T r = temperatureExact r.toNat) ∧
    (∀ r, m = .seq64 → |T r - temperatureExact r.toNat| < 24 / 10 ^ 15) ∧
    (∀ r, m = .cr64 → |T r - temperatureExact r.toNat| < 15 / 10 ^ 15)

/-- R90, which the spec marks as its own inference: the clamp never changes a value, in any mode, and 100 is reached
at `raw_rh = 0xFFFF` only. -/
def Obligations.HumidityClampNeverChangesAValue : Prop :=
  ∀ r : Word,
    0 ≤ humidityUnclamped r.toNat ∧ humidityUnclamped r.toNat ≤ 100 ∧
    0 ≤ humidityUnclampedSeq64 r.toNat ∧ humidityUnclampedSeq64 r.toNat ≤ 100 ∧
    humidityExact r.toNat = humidityUnclamped r.toNat ∧
    humiditySeq64 r.toNat = humidityUnclampedSeq64 r.toNat ∧
    (∀ m : ConvMode, (humidity m r).value = some 100 ↔ r = 0xFFFF)

/-! ## Encoding (30_encoding.md) -/

/-- Decode and encode agree on every well-formed instruction of every family, every operand at every value.
Which of two overlapping rows a request is read as is the model's choice (notes/assumptions/3.md, 4.md). -/
def Obligations.DecodeOfEncodeIsTheInstruction : Prop :=
  ∀ i : Instr, i.wellFormed = true → decode (encode i) = i

/-- The decoder is total, as 30_encoding.md section 4 says by its own inference: every 56-bit word decodes to a
well-formed instruction, which its own encoding decodes to again. Well-formedness holds the row choice of the model:
no word decodes to `encode` with no ignored bit set (notes/assumptions/3.md) or to `decodeCmd` of a word on a
wire-command row (notes/assumptions/4.md). -/
def Obligations.EveryWordDecodesToAWellFormedInstruction : Prop :=
  ∀ w : Request, (decode w).wellFormed = true ∧ decode (encode (decode w)) = decode w

/-- The word is on the row of the opcode table that its instruction names: no reserved encoding falls through to a
neighbour. That a 56-bit request is on a 16-bit wire-command row, whose word then stands in `b0` and `b1`, is the
model's choice (notes/assumptions/4.md), as is the row of an ENCODE request (notes/assumptions/3.md). -/
def Obligations.EveryWordIsOnItsInstructionsRow : Prop :=
  ∀ w : Request, w &&& rowMask (decode w) = rowMatch (decode w)

/-- R48, whole: two requests that agree on the fields their operation reads have the same step, in every state, and
the assembler writes the other fields as zero. -/
def Obligations.IgnoredFieldsChangeNothing : Prop :=
  (∀ (s : State) (rest : List Move) (v w : Request), reqOp v = reqOp w →
    (reqOp v = 0x2 → reqCmd v = reqCmd w) →
    (∀ k, k < bytesRead (reqOp v) → reqByte v k = reqByte w k) →
    step { s with moves := .request v :: rest } = step { s with moves := .request w :: rest }) ∧
  decode 0x10BEEF92000000 = .verify 0xBE 0xEF 0x92 ∧ decode 0x1FBEEF92000000 = .verify 0xBE 0xEF 0x92 ∧
  (∀ (line : AsmLine) (w : Request), (∀ v, line ≠ .rawRequest v) → assemble line = some w →
    (reqOp w ≠ 0x2 → reqCmd w = 0) ∧ ∀ k, bytesRead (reqOp w) ≤ k → k < 6 → reqByte w k = 0)

/-- R61: `ENCODE_HEATER e` is ENCODE HEATER_ENABLE for 1, ENCODE HEATER_DISABLE for 0, and no request for any other
number. -/
def Obligations.HeaterPseudoInstructionExpands : Prop :=
  ∀ e : Nat, (assemble (.encodeHeater e)).map decode =
    if e = 1 then some .encodeHeaterEnable else if e = 0 then some .encodeHeaterDisable else none

/-- The assembler's forms (30_encoding.md section 4): each becomes a request of its own operation with its operands,
and a number that does not fit its field is no request, in any operand of any form. The forms of ENCODE and
DECODE_CMD are given as whole words too, so that nothing in them rests on which of two overlapping rows a request is
read as (the model's choice, notes/assumptions/3.md and 4.md); `decodeLookup` is that choice for DECODE_CMD. -/
def Obligations.AssemblerFormsBecomeTheirRequests : Prop :=
  (∀ d0 d1 : Byte, (assemble (.crc8 d0.toNat d1.toNat)).map decode = some (.crc8 d0 d1)) ∧
  (∀ d0 d1 k : Byte, (assemble (.verify d0.toNat d1.toNat k.toNat)).map decode = some (.verify d0 d1 k)) ∧
  (assemble (.encodeCommand .readStatus) = some 0x20000000000000 ∧
    assemble (.encodeCommand .softReset) = some 0x21000000000000 ∧
    assemble (.encodeCommand .heaterEnable) = some 0x22000000000000 ∧
    assemble (.encodeCommand .heaterDisable) = some 0x23000000000000 ∧
    assemble (.encodeCommand .readSerial) = some 0x24000000000000 ∧
    assemble (.encodeCommand .measure) = some 0x25000000000000) ∧
  (∀ c : Command, assemble (.encodeCommand c) = assemble (.encodeNumber (selectorOf c).toNat)) ∧
  (∀ n : Nat, assemble (.encodeNumber n) =
    if n < 16 then some ((0x2 : BitVec 4) ++ BitVec.ofNat 4 n ++ (0 : BitVec 48)) else none) ∧
  (∀ w0 w1 : Byte, assemble (.decodeCmd w0.toNat w1.toNat) = some ((0x30 : Byte) ++ w0 ++ w1 ++ (0 : BitVec 32)) ∧
    (assemble (.decodeCmd w0.toNat w1.toNat)).map decode = some (decodeLookup w0 w1)) ∧
  (∀ m l c : Byte,
    (assemble (.decodeStatus m.toNat l.toNat c.toNat)).map decode = some (.decodeStatus m l c)) ∧
  (∀ a b c d e f : Byte,
    (assemble (.decodeMeas a.toNat b.toNat c.toNat d.toNat e.toNat f.toNat)).map decode =
      some (.decodeMeas a b c d e f)) ∧
  (∀ a b c d e f : Byte,
    (assemble (.decodeSerial a.toNat b.toNat c.toNat d.toNat e.toNat f.toNat)).map decode =
      some (.decodeSerial a b c d e f)) ∧
  (∀ w : Request, assemble (.rawRequest w.toNat) = some w) ∧
  (∀ a b : Nat, 256 ≤ a ∨ 256 ≤ b → assemble (.crc8 a b) = none ∧ assemble (.decodeCmd a b) = none) ∧
  (∀ a b c : Nat, 256 ≤ a ∨ 256 ≤ b ∨ 256 ≤ c →
    assemble (.verify a b c) = none ∧ assemble (.decodeStatus a b c) = none) ∧
  (∀ a b c d e f : Nat, 256 ≤ a ∨ 256 ≤ b ∨ 256 ≤ c ∨ 256 ≤ d ∨ 256 ≤ e ∨ 256 ≤ f →
    assemble (.decodeMeas a b c d e f) = none ∧ assemble (.decodeSerial a b c d e f) = none) ∧
  (∀ w : Nat, 2 ^ 56 ≤ w → assemble (.rawRequest w) = none)

/-- A few request words written out from the field table of 30_encoding.md section 1 decode to what they stand for.
Which constructor stands for a request on two rows is the model's choice: that ENCODE MEASURE with no ignored bit is
`encodeMeasure` and with one is `encode` (notes/assumptions/3.md), and that a DECODE_CMD of the word 0x30A2 is
`wireSoftReset` (notes/assumptions/4.md). -/
def Obligations.WrittenOutRequestsDecode : Prop :=
  decode 0x00BEEF00000000 = .crc8 0xBE 0xEF ∧
  decode 0x25000000000000 = .encodeMeasure ∧
  decode 0x25000000000001 = .encode 0x5 0x000000000001 ∧
  decode 0x3030A200000000 = .wireSoftReset ∧
  decode 0x30304100000000 = .decodeCmd 0x30 0x41 ∧
  decode 0x408010E1000000 = .decodeStatus 0x80 0x10 0xE1 ∧
  decode 0x506A3EE04C150A = .decodeMeas 0x6A 0x3E 0xE0 0x4C 0x15 0x0A ∧
  decode 0x6012343756787D = .decodeSerial 0x12 0x34 0x37 0x56 0x78 0x7D ∧
  decode 0x2F000000000000 = .encodeReserved8F 7 ∧
  decode 0x70000000000000 = .reservedOp7 ∧
  decode 0xF0BEEF92000000 = .reservedOp8F 7

/-! ## The step, the mode and the errors (10_state.md, 60_exceptions.md) -/

/-- A step runs the decoded instruction: where the host's next move is a request, the step is the meaning of the
instruction that request decodes to, in the state with that move taken; and `withFetchWord` puts exactly that request
there. In `Faulted` that meaning is no step; where the host then has a reset to come, the request is passed over with
the block as it was. The list of moves, presenting a request by putting it at its head, and looking along the list for
that reset are the model's choice (notes/assumptions/2.md, 5.md, 7.md; for the 16-bit rows 4.md). -/
def Obligations.StepRunsTheDecodedInstruction : Prop :=
  (∀ (s : State) (w : Request) (rest : List Move), ¬(s.mode = .faulted ∧ Move.reset ∈ rest) →
    step { s with moves := .request w :: rest } = exec (decode w) { s with moves := rest }) ∧
  (∀ (s : State) (w : Request) (rest : List Move), legalConfig s.cfg = true → s.mode = .faulted →
    Move.reset ∈ rest →
    exec (decode w) { s with moves := rest } = .fault .stuckInFaulted ∧
    step { s with moves := .request w :: rest } = .next { s with moves := rest }) ∧
  (∀ (s : State) (nbits w : Nat) (i : Instr), decodeTableWord nbits w = some i →
    ¬(s.mode = .faulted ∧ Move.reset ∈ s.moves) → step (s.withFetchWord nbits w) = exec i s)

/-- R17: an instruction has a step exactly when the mode is not `Faulted`, and then the mode becomes `Faulted` when
the response is a PROTOCOL_MISUSE and stays as it is otherwise. -/
def Obligations.InstructionStepsExactlyWhenNotFaulted : Prop :=
  ∀ (i : Instr) (s : State), legalConfig s.cfg = true →
    ((∃ t, exec i s = .next t) ↔ s.mode ≠ .faulted) ∧
    (∀ t, exec i s = .next t → ∃ r, t.resp = some r ∧
      t.mode = if r.kind = .protocolMisuse then .faulted else s.mode)

/-- R49 and R99: a reserved `op` raises ProtocolMisuse whatever the other fields hold. -/
def Obligations.ReservedSelectorIsProtocolMisuse : Prop :=
  ∀ s : State, s.Accepts →
    exec .reservedOp7 s = .next { s with resp := some (blankResponse .protocolMisuse), mode := .faulted } ∧
    (∀ low : BitVec 3, exec (.reservedOp8F low) s = .next { s with
      resp := some (blankResponse .protocolMisuse), mode := .faulted }) ∧
    (∀ w : Request, 7 ≤ (reqOp w).toNat → exec (decode w) s = .next { s with
      resp := some (blankResponse .protocolMisuse), mode := .faulted })

/-- R100: in `Faulted` no request is accepted, the response stays, only reset leaves, and a run that reaches it has
faulted and has not ended well. -/
def Obligations.FaultedIsLeftByResetOnly : Prop :=
  (∀ (i : Instr) (s : State), legalConfig s.cfg = true → s.mode = .faulted →
    exec i s = .fault .stuckInFaulted) ∧
  (∀ s t : State, s.mode = .faulted → step s = .next t →
    (t.mode = .faulted ∧ t.resp = s.resp) ∨ (∃ rest, s.moves = .reset :: rest ∧ t.mode = .ready)) ∧
  (∀ (s u : State) (k : Nat), k ≤ s.moves.length → State.run k s = .next u →
    u.mode = .faulted → s.HasFaulted ∧ ¬ s.EndsWell)

/-- R123 with R100: a run that starts where the block accepts requests has either ended well or has faulted, and not
both; whatever moves the host announced, nothing else can become of it. That a run which reached `Faulted` and was then
reset has not ended well is the model's reading (notes/assumptions/9.md). -/
def Obligations.RunsEndWellUnlessTheyFault : Prop :=
  ∀ s : State, s.Accepts → (s.EndsWell ↔ ¬ s.HasFaulted)

/-- R16: `Faulted` is written by a ProtocolMisuse alone and `Ready` by reset alone, every instruction reads the mode
first, and the mode is on no port. -/
def Obligations.ModeIsWrittenByMisuseAndResetAlone : Prop :=
  (∀ s t : State, step s = .next t → s.mode = .ready → t.mode = .faulted →
    ∃ w rest, s.moves = .request w :: rest ∧ t.resp = some (blankResponse .protocolMisuse)) ∧
  (∀ s t : State, step s = .next t → s.mode = .faulted → t.mode = .ready →
    ∃ rest, s.moves = .reset :: rest) ∧
  (∀ (i : Instr) (s : State), legalConfig s.cfg = true → s.mode = .faulted →
    ∀ t, exec i s ≠ .next t) ∧
  (∀ (s : State) (m : Mode) (p : Port), readPort { s with mode := m } p = readPort s p)

/-- R104: the conditions of a request in their order. -/
def Obligations.ConditionsAreTakenInOrder : Prop :=
  ∀ (s : State) (w : Request), legalConfig s.cfg = true →
    (s.mode = .faulted → exec (decode w) s = .fault .stuckInFaulted) ∧
    (s.mode = .ready → ∃ (t : State) (r : Response), exec (decode w) s = .next t ∧ t.resp = some r ∧
      r.kind =
        if 7 ≤ (reqOp w).toNat then .protocolMisuse
        else if reqOp w = 0x2 ∧ 5 < (reqCmd w).toNat then .protocolMisuse
        else if reqOp w = 0x4 ∧ crc8 s.cfg (reqByte w 0) (reqByte w 1) ≠ reqByte w 2 then .checksumMismatch
        else if (reqOp w = 0x5 ∨ reqOp w = 0x6) ∧
            (crc8 s.cfg (reqByte w 0) (reqByte w 1) ≠ reqByte w 2 ∨
              crc8 s.cfg (reqByte w 3) (reqByte w 4) ≠ reqByte w 5) then .checksumMismatch
        else .ok)

/-- R95: the two error kinds, their codes, who raises each and on what, what each records, and what it does to the
mode. -/
def Obligations.ErrorKindsHaveTheirCausesAndCodes : Prop :=
  Kind.checksumMismatch.code = 0b01 ∧ Kind.protocolMisuse.code = 0b10 ∧
  ∀ (i : Instr) (s t : State) (r : Response), exec i s = .next t → t.resp = some r →
    (r.kind = .checksumMismatch ↔ failingGroup s.cfg i = true) ∧
    (r.kind = .protocolMisuse ↔ outsideDefinedSet i = true) ∧
    (r.kind = .checksumMismatch → r = blankResponse .checksumMismatch ∧ t.mode = s.mode) ∧
    (r.kind = .protocolMisuse → r = blankResponse .protocolMisuse ∧ t.mode = .faulted)

/-- R102: VERIFY with a wrong check byte and DECODE_CMD with an unknown word are no errors, and CRC8 never errs. -/
def Obligations.NegativeResultsAreNotErrors : Prop :=
  ∀ s : State, s.Accepts →
    (∀ d0 d1 chk : Byte, chk ≠ crc8 s.cfg d0 d1 →
      ∃ (t : State) (r : Response), exec (.verify d0 d1 chk) s = .next t ∧ t.resp = some r ∧ r.kind = .ok ∧
        r.matched = some false) ∧
    (∀ w0 w1 : Byte, (∀ c, wireCode s.cfg c ≠ w0 ++ w1) →
      ∃ (t : State) (r : Response), exec (.decodeCmd w0 w1) s = .next t ∧ t.resp = some r ∧ r.kind = .ok ∧
        r.cmdValid = some false) ∧
    (∀ d0 d1 : Byte, ∃ (t : State) (r : Response), exec (.crc8 d0 d1) s = .next t ∧ t.resp = some r ∧ r.kind = .ok)

/-- R21: the response stays until the next request is accepted or reset occurs, a later request replaces it whole, and
a failed operation leaves every payload field ⊥. -/
def Obligations.ResponsesAreHeldAndReplacedWhole : Prop :=
  (∀ s t : State, step s = .next t →
    t.resp = s.resp ∨ (∃ rest, s.moves = .reset :: rest) ∨ (∃ w rest, s.moves = .request w :: rest)) ∧
  (∀ (i : Instr) (s : State) (old : Option Response), exec i { s with resp := old } = exec i s) ∧
  (∀ (i : Instr) (s t : State) (r : Response), exec i s = .next t → t.resp = some r → r.kind ≠ .ok →
    r = blankResponse r.kind)

/-- R51: the fields each operation writes on `OK`, and no other; on an error, `kind` alone. -/
def Obligations.ResponseFieldsAreTheOperationsRow : Prop :=
  ∀ (i : Instr) (s t : State) (r : Response), exec i s = .next t → t.resp = some r →
    r.presentPorts = if r.kind = .ok then okPorts (r.cmdValid == some true) i else [.kind]

/-- R29, which the spec marks as its own inference: for a fixed configuration, what a request leaves is a function of
the request and the mode alone. -/
def Obligations.ResponseIsAFunctionOfRequestAndMode : Prop :=
  ∀ (i : Instr) (s u : State), s.cfg = u.cfg → s.mode = u.mode →
    (∀ s', exec i s = .next s' → ∃ u', exec i u = .next u' ∧ u'.resp = s'.resp ∧ u'.mode = s'.mode) ∧
    (∀ f, exec i s = .fault f → exec i u = .fault f) ∧
    (∀ f, exec i s = .refused f → exec i u = .refused f)

/-- R40, which the spec marks as its own inference: an accepted request other than a ProtocolMisuse is idempotent, and
no request changes anything but the response and the mode. -/
def Obligations.RequestsAreIdempotent : Prop :=
  ∀ (i : Instr) (s t : State), exec i s = .next t →
    t.cfg = s.cfg ∧ t.moves = s.moves ∧
    (t.mode = .ready → exec i t = .next t) ∧
    (t.mode = .faulted → t.resp = some (blankResponse .protocolMisuse))

/-- R110 and R111: the reset event, from every state of a legal configuration, `Faulted` included; there it is taken
after any requests that met no step, which leave nothing behind. No step but an accepted request's changes the mode or
the response otherwise, and the state after power-on is one that a reset event leaves. That a run goes on past a
request in `Faulted` to a reset further along the host's list is the model's reading (DEDUCED,
notes/assumptions/7.md), and the list is its choice (notes/assumptions/2.md). -/
def Obligations.ResetEventMakesTheBlockReady : Prop :=
  (∀ (s : State) (rest : List Move), legalConfig s.cfg = true → s.moves = .reset :: rest →
    step s = .next { s with mode := .ready, resp := none, moves := rest }) ∧
  (∀ (s : State) (ws : List Request) (rest : List Move), legalConfig s.cfg = true → s.mode = .faulted →
    State.run (ws.length + 1) { s with moves := ws.map Move.request ++ .reset :: rest } =
      .next { s with mode := .ready, resp := none, moves := rest }) ∧
  (∀ s t : State, step s = .next t → t.mode ≠ s.mode ∨ t.resp ≠ s.resp →
    (∃ rest, s.moves = .reset :: rest) ∨
    (∃ w rest, s.moves = .request w :: rest ∧ exec (decode w) { s with moves := rest } = .next t)) ∧
  resetEvent State.reset = State.reset

/-- R112, which the spec marks as its own inference: after reset the next request is accepted, and behaves as it would
after any response that left the block `Ready`. -/
def Obligations.RequestAfterResetRunsAsAfterAnyResponse : Prop :=
  ∀ (i : Instr) (s u : State), u.Accepts → u.cfg = s.cfg → u.moves = s.moves →
    exec i (resetEvent s) = exec i u ∧ ∃ t, exec i (resetEvent s) = .next t

/-- R28: the state after reset, in which every port is ⊥ and a read of any of them faults; the reset event gives the
same mode and response in every state and leaves the configuration as it is. -/
def Obligations.ResetStateIsReadyWithNoResponse : Prop :=
  State.reset.mode = .ready ∧ State.reset.resp = none ∧
  (∀ p : Port, hostRead p State.reset = .fault (.readOfNoValue p)) ∧
  (∀ s : State, (resetEvent s).mode = .ready ∧ (resetEvent s).resp = none ∧ (resetEvent s).cfg = s.cfg)

/-- R121: a host's read of ⊥ is a fault, with the three cases the rule names, and a read of a port that holds a value
changes nothing but the host's list. -/
def Obligations.ReadingNoValueFaults : Prop :=
  (∀ (s : State) (p : Port) (rest : List Move), legalConfig s.cfg = true → s.moves = .read p :: rest →
    (readPort s p = none → step s = .fault (.readOfNoValue p)) ∧
    (∀ v, readPort s p = some v → step s = .next { s with moves := rest })) ∧
  (∀ (i : Instr) (s t : State) (r : Response) (p : Port), exec i s = .next t → t.resp = some r → r.kind ≠ .ok →
    p ≠ .kind → readPort t p = none) ∧
  (∀ (i : Instr) (s t : State) (r : Response), exec i s = .next t → t.resp = some r → r.cmdValid = some false →
    readPort t .cmdOut = none) ∧
  (∀ (s : State) (p : Port), readPort (resetEvent s) p = none)

/-- R120 as the frame of a step: it takes at most the host's oldest move, never writes the configuration, and changes
the mode and the response only on a request or a reset. That the host's moves are a list of which a step takes the
oldest, and that a step with none left changes nothing, is the model's choice (notes/assumptions/2.md): the spec has
no step without a move. A request that changes neither met the block in `Faulted` with a reset to come
(notes/assumptions/7.md). -/
def Obligations.StepChangesOnlyWhatItsMoveMay : Prop :=
  ∀ s t : State, step s = .next t →
    t.cfg = s.cfg ∧ t.moves = s.moves.tail ∧
    (s.moves = [] → t = s) ∧
    (∀ p rest, s.moves = .read p :: rest → t.mode = s.mode ∧ t.resp = s.resp) ∧
    (∀ w rest, s.moves = .request w :: rest → (s.mode = .ready ∧ t.resp.isSome) ∨
      (s.mode = .faulted ∧ Move.reset ∈ rest ∧ t = { s with moves := rest })) ∧
    (∀ rest, s.moves = .reset :: rest → t.mode = .ready ∧ t.resp = none)

/-- The invariant of the machine is kept by every step: the responses have the fields, the copies and the readings the
spec gives them, and the mode is `Faulted` exactly after a ProtocolMisuse. -/
def Obligations.EveryStepKeepsTheInvariant : Prop :=
  ∀ s t : State, s.Inv → step s = .next t → t.Inv

/-- The invariant holds after reset, where the configuration is the default (the model's choice,
notes/assumptions/1.md). -/
def Obligations.InvariantHoldsAtReset : Prop := State.reset.Inv

/-- Under the invariant a block that has accepted nothing but what the host announced always has a next state, unless
the host's next move is a request in `Faulted` with no reset to come (notes/assumptions/7.md) or a read of ⊥: the
only two ways a run can stop. -/
def Obligations.StepStopsOnlyForTheHostsTwoMistakes : Prop :=
  ∀ s : State, s.Inv →
    (∃ t, step s = .next t) ∨
    (s.mode = .faulted ∧ (∃ w rest, s.moves = .request w :: rest ∧ Move.reset ∉ rest) ∧
      step s = .fault .stuckInFaulted) ∨
    (∃ p rest, s.moves = .read p :: rest ∧ readPort s p = none ∧ step s = .fault (.readOfNoValue p))

/-- R6: the three constraints on a configuration, and that a configuration which breaks one has no meaning: every
instruction and every step refuses it. That the legal lists meet the first constraint, which the rule marks as
derived, is `LegalListsGiveDistinctCodes`. -/
def Obligations.IllegalConfigurationsAreRefused : Prop :=
  (∀ cfg : Config, legalConfig cfg = true ↔
    (∀ a b : Command, wireCode cfg a = wireCode cfg b → a = b) ∧
    cfg.measCmd ∈ [0x2C06, 0x2C0D, 0x2C10, 0x2400, 0x240B, 0x2416] ∧
    cfg.serialCmd ∈ [0x3780, 0x3682] ∧ cfg.crcPoly.getLsbD 0 = true) ∧
  (∀ s : State, legalConfig s.cfg = false →
    step s = .refused .illegalConfiguration ∧ ∀ i : Instr, exec i s = .refused .illegalConfiguration)

/-- The sentence of R6 that the spec marks as its own inference: codes from the legal lists are distinct from the
four fixed codes and from one another. -/
def Obligations.LegalListsGiveDistinctCodes : Prop :=
  ∀ cfg : Config, cfg.measCmd ∈ [0x2C06, 0x2C0D, 0x2C10, 0x2400, 0x240B, 0x2416] →
    cfg.serialCmd ∈ [0x3780, 0x3682] → ∀ a b : Command, wireCode cfg a = wireCode cfg b → a = b

/-- R108: a step of one instance is that block's own step and leaves every other instance as it is. -/
def Obligations.InstancesShareNoState : Prop :=
  ∀ (blocks after : List State) (k : Fin blocks.length), stepInstance blocks k = .next after →
    (∃ t : State, step blocks[k] = .next t ∧ after[k.val]? = some t) ∧
    after.length = blocks.length ∧
    ∀ j : Nat, j ≠ k.val → after[j]? = blocks[j]?
end

