-- ==== Sys2Proof/Laws/Binary64.lean ====
section
/-! SUPPORT. What the two integer steps of rounding do (00_scope.md R11): the logarithm brackets its quotient, and
rounding is within half a unit, with an even result at a tie. -/

namespace Sys2Proof.Machine

/-- `roundHalfEven a b` is within half a unit of a / b. -/
theorem roundHalfEven_near (a : Nat) {b : Nat} (hb : 0 < b) :
    2 * (roundHalfEven a b * b) ≤ 2 * a + b ∧ 2 * a ≤ 2 * (roundHalfEven a b * b) + b := by
  have hd := Nat.div_add_mod a b
  have hm := Nat.mod_lt a hb
  have hc : b * (a / b) = a / b * b := Nat.mul_comm _ _
  unfold roundHalfEven
  split
  · omega
  · split
    · rw [Nat.add_mul]; omega
    · rcases Nat.mod_two_eq_zero_or_one (a / b) with h | h <;> rw [h, Nat.add_mul] <;> omega

/-- At a tie, `roundHalfEven` answers the even neighbour. -/
theorem roundHalfEven_tie {a b : Nat} (h : 2 * (a % b) = b) : roundHalfEven a b % 2 = 0 := by
  unfold roundHalfEven
  rw [if_neg (by omega), if_neg (by omega)]
  omega

/-- The comparison `floorLog2` makes, as an inequality of rationals. -/
theorem zpow_le_div_iff (n : Nat) {d : Nat} (hd : 0 < d) (e : Int) :
    d * 2 ^ e.toNat ≤ n * 2 ^ (-e).toNat ↔ (2 : Rat) ^ e ≤ (n : Rat) / d := by
  have hd' : (0 : Rat) < d := by exact_mod_cast hd
  rw [le_div_iff₀ hd']
  rcases Int.le_total 0 e with he | he
  · obtain ⟨k, rfl⟩ := Int.eq_ofNat_of_zero_le he
    have : (-(k : Int)).toNat = 0 := by omega
    rw [this]
    simp only [Int.toNat_natCast, pow_zero, mul_one, zpow_natCast]
    rw [mul_comm]
    exact_mod_cast Iff.rfl
  · obtain ⟨k, hk⟩ := Int.eq_ofNat_of_zero_le (Int.neg_nonneg_of_nonpos he)
    obtain rfl : e = -(k : Int) := by omega
    have h1 : (-(-(k : Int))).toNat = k := by omega
    have h2 : (-(k : Int)).toNat = 0 := by omega
    have hp : (0 : Rat) < 2 ^ k := by positivity
    rw [h1, h2, zpow_neg, zpow_natCast, inv_mul_le_iff₀ hp, pow_zero, mul_one, mul_comm ((2 : Rat) ^ k)]
    exact_mod_cast Iff.rfl

/-- `floorLog2 n d` brackets n / d between two powers of 2. -/
theorem floorLog2_spec {n d : Nat} (hn : 0 < n) (hd : 0 < d) :
    (2 : Rat) ^ floorLog2 n d ≤ (n : Rat) / d ∧ (n : Rat) / d < (2 : Rat) ^ (floorLog2 n d + 1) := by
  have hd' : (0 : Rat) < d := by exact_mod_cast hd
  have n1 : (2 : Rat) ^ (n.log2 : Int) ≤ n := by
    rw [zpow_natCast]; exact_mod_cast Nat.log2_self_le hn.ne'
  have n2 : (n : Rat) < 2 ^ ((n.log2 : Int) + 1) := by
    rw [← Nat.cast_succ, zpow_natCast]; exact_mod_cast Nat.lt_log2_self
  have d1 : (2 : Rat) ^ (d.log2 : Int) ≤ d := by
    rw [zpow_natCast]; exact_mod_cast Nat.log2_self_le hd.ne'
  have d2 : (d : Rat) < 2 ^ ((d.log2 : Int) + 1) := by
    rw [← Nat.cast_succ, zpow_natCast]; exact_mod_cast Nat.lt_log2_self
  have two : (2 : Rat) ≠ 0 := by norm_num
  unfold floorLog2
  simp only [zpow_le_div_iff n hd]
  split
  case isTrue h =>
    refine ⟨h, ?_⟩
    rw [div_lt_iff₀ hd']
    calc (n : Rat) < 2 ^ ((n.log2 : Int) + 1) := n2
      _ = 2 ^ ((n.log2 : Int) - d.log2 + 1) * 2 ^ (d.log2 : Int) := by rw [← zpow_add₀ two]; congr 1; ring
      _ ≤ 2 ^ ((n.log2 : Int) - d.log2 + 1) * d := by gcongr
  case isFalse h =>
    refine ⟨?_, by simpa using h⟩
    rw [le_div_iff₀ hd']
    calc (2 : Rat) ^ ((n.log2 : Int) - d.log2 - 1) * d
        ≤ 2 ^ ((n.log2 : Int) - d.log2 - 1) * 2 ^ ((d.log2 : Int) + 1) := by gcongr
      _ = 2 ^ (n.log2 : Int) := by rw [← zpow_add₀ two]; congr 1; ring
      _ ≤ n := n1

end Sys2Proof.Machine
end

