-- ==== Sys2Proof/Laws/Crc.lean ====
section
/-! SUPPORT. The checksum's shift is linear over GF(2) (40_checksum.md R64): lemmas for one shift and for a run of
them. -/

namespace Sys2Proof.Machine

/-- A shift of the zero accumulator is zero. -/
@[simp] theorem crcShift_zero (poly : Byte) : crcShift poly 0 = 0 := by simp [crcShift]

/-- A shift distributes over exclusive or. -/
theorem crcShift_xor (poly a b : Byte) : crcShift poly (a ^^^ b) = crcShift poly a ^^^ crcShift poly b := by
  simp only [crcShift, BitVec.msb_xor]
  cases a.msb <;> cases b.msb <;> simp [BitVec.shiftLeft_xor_distrib] <;> ext i <;> simp <;> grind

/-- Any number of shifts of the zero accumulator is zero. -/
@[simp] theorem crcShifts_zero (poly : Byte) (k : Nat) : crcShifts poly k 0 = 0 := by
  induction k with
  | zero => rfl
  | succ k ih => rw [crcShifts, crcShift_zero, ih]

/-- Any number of shifts distributes over exclusive or. -/
theorem crcShifts_xor (poly : Byte) (k : Nat) (a b : Byte) :
    crcShifts poly k (a ^^^ b) = crcShifts poly k a ^^^ crcShifts poly k b := by
  induction k generalizing a b with
  | zero => rfl
  | succ k ih => simp only [crcShifts, crcShift_xor, ih]

end Sys2Proof.Machine
end

