-- ==== Sys2Proof/Laws/Decode.lean ====
section
/-! SUPPORT. The fields of a packed request word (30_encoding.md R44), and the bits a row of the opcode table fixes. -/

namespace Sys2Proof

section Pack
variable (op cmd : BitVec 4) (b0 b1 b2 b3 b4 b5 : Byte)

/-- Packing a request keeps its operation selector (R44). -/
@[simp] theorem reqOp_packRequest : reqOp (packRequest op cmd b0 b1 b2 b3 b4 b5) = op := by
  unfold reqOp packRequest
  repeat rw [BitVec.extractLsb'_append_eq_of_le (by decide)]
  exact BitVec.extractLsb'_eq_self

/-- Packing a request keeps its Command selector (R44). -/
@[simp] theorem reqCmd_packRequest : reqCmd (packRequest op cmd b0 b1 b2 b3 b4 b5) = cmd := by
  unfold reqCmd packRequest
  repeat rw [BitVec.extractLsb'_append_eq_of_le (by decide)]
  rw [BitVec.extractLsb'_append_eq_of_add_le (by decide)]
  exact BitVec.extractLsb'_eq_self

/-- Packing a request keeps operand byte `b0` (R44). -/
@[simp] theorem reqByte_0_packRequest : reqByte (packRequest op cmd b0 b1 b2 b3 b4 b5) 0 = b0 := by
  unfold reqByte packRequest
  repeat rw [BitVec.extractLsb'_append_eq_of_le (by decide)]
  rw [BitVec.extractLsb'_append_eq_of_add_le (by decide)]
  exact BitVec.extractLsb'_eq_self

/-- Packing a request keeps operand byte `b1` (R44). -/
@[simp] theorem reqByte_1_packRequest : reqByte (packRequest op cmd b0 b1 b2 b3 b4 b5) 1 = b1 := by
  unfold reqByte packRequest
  repeat rw [BitVec.extractLsb'_append_eq_of_le (by decide)]
  rw [BitVec.extractLsb'_append_eq_of_add_le (by decide)]
  exact BitVec.extractLsb'_eq_self

/-- Packing a request keeps operand byte `b2` (R44). -/
@[simp] theorem reqByte_2_packRequest : reqByte (packRequest op cmd b0 b1 b2 b3 b4 b5) 2 = b2 := by
  unfold reqByte packRequest
  repeat rw [BitVec.extractLsb'_append_eq_of_le (by decide)]
  rw [BitVec.extractLsb'_append_eq_of_add_le (by decide)]
  exact BitVec.extractLsb'_eq_self

/-- Packing a request keeps operand byte `b3` (R44). -/
@[simp] theorem reqByte_3_packRequest : reqByte (packRequest op cmd b0 b1 b2 b3 b4 b5) 3 = b3 := by
  unfold reqByte packRequest
  repeat rw [BitVec.extractLsb'_append_eq_of_le (by decide)]
  rw [BitVec.extractLsb'_append_eq_of_add_le (by decide)]
  exact BitVec.extractLsb'_eq_self

/-- Packing a request keeps operand byte `b4` (R44). -/
@[simp] theorem reqByte_4_packRequest : reqByte (packRequest op cmd b0 b1 b2 b3 b4 b5) 4 = b4 := by
  unfold reqByte packRequest
  repeat rw [BitVec.extractLsb'_append_eq_of_le (by decide)]
  rw [BitVec.extractLsb'_append_eq_of_add_le (by decide)]
  exact BitVec.extractLsb'_eq_self

/-- Packing a request keeps operand byte `b5` (R44). -/
@[simp] theorem reqByte_5_packRequest : reqByte (packRequest op cmd b0 b1 b2 b3 b4 b5) 5 = b5 := by
  unfold reqByte packRequest
  rw [BitVec.extractLsb'_append_eq_of_add_le (by decide)]
  exact BitVec.extractLsb'_eq_self

end Pack

section EncodeForm
variable (cmd : BitVec 4) (ignored : BitVec 48)

/-- The general ENCODE request has ENCODE's selector (R45). -/
@[simp] theorem reqOp_encodeForm : reqOp ((2 : BitVec 4) ++ cmd ++ ignored) = 2 := by
  unfold reqOp
  repeat rw [BitVec.extractLsb'_append_eq_of_le (by decide)]
  exact BitVec.extractLsb'_eq_self

/-- The general ENCODE request keeps its Command selector (R44). -/
@[simp] theorem reqCmd_encodeForm : reqCmd ((2 : BitVec 4) ++ cmd ++ ignored) = cmd := by
  unfold reqCmd
  rw [BitVec.extractLsb'_append_eq_of_le (by decide), BitVec.extractLsb'_append_eq_of_add_le (by decide)]
  exact BitVec.extractLsb'_eq_self

/-- The general ENCODE request keeps its ignored bits (R48). -/
@[simp] theorem reqBytes_encodeForm : reqBytes ((2 : BitVec 4) ++ cmd ++ ignored) = ignored := by
  unfold reqBytes
  rw [BitVec.extractLsb'_append_eq_of_add_le (by decide)]
  exact BitVec.extractLsb'_eq_self

end EncodeForm

/-- A row that fixes the operation selector alone: the request's bits 55:52 (R45). -/
theorem and_opMask (w : Request) : w &&& (0xF0000000000000 : Request) = (reqOp w).zeroExtend 56 <<< 52 := by
  apply BitVec.eq_of_getLsbD_eq
  intro i hi
  unfold reqOp
  interval_cases i <;> simp

end Sys2Proof
end

