-- ==== Sys2Proof/Laws/State.lean ====
section
/-! SUPPORT. One lemma per field of the state for each update of it: `respond`, `raiseError` and `resetEvent` write
`resp` and `mode` alone. -/

namespace Sys2Proof.Machine

@[simp] theorem respond_cfg (r : Response) (s : State) : (respond r s).cfg = s.cfg := rfl
@[simp] theorem respond_mode (r : Response) (s : State) : (respond r s).mode = s.mode := rfl
@[simp] theorem respond_resp (r : Response) (s : State) : (respond r s).resp = some r := rfl
@[simp] theorem respond_moves (r : Response) (s : State) : (respond r s).moves = s.moves := rfl

@[simp] theorem raiseError_cfg (k : Kind) (s : State) : (raiseError k s).cfg = s.cfg := rfl
@[simp] theorem raiseError_mode (k : Kind) (s : State) :
    (raiseError k s).mode = if k = .protocolMisuse then .faulted else s.mode := rfl
@[simp] theorem raiseError_resp (k : Kind) (s : State) :
    (raiseError k s).resp = some (blankResponse k) := rfl
@[simp] theorem raiseError_moves (k : Kind) (s : State) : (raiseError k s).moves = s.moves := rfl

@[simp] theorem resetEvent_cfg (s : State) : (resetEvent s).cfg = s.cfg := rfl
@[simp] theorem resetEvent_mode (s : State) : (resetEvent s).mode = .ready := rfl
@[simp] theorem resetEvent_resp (s : State) : (resetEvent s).resp = none := rfl
@[simp] theorem resetEvent_moves (s : State) : (resetEvent s).moves = s.moves := rfl

@[simp] theorem blankResponse_kind (k : Kind) : (blankResponse k).kind = k := rfl

/-- `raise ChecksumMismatch()` is the response alone (R97). -/
theorem raiseChecksumMismatch_eq (s : State) :
    raiseChecksumMismatch s = respond (blankResponse .checksumMismatch) s := rfl

/-- `raise ProtocolMisuse()` is the response and the mode (R99). -/
theorem raiseProtocolMisuse_eq (s : State) :
    raiseProtocolMisuse s = { s with resp := some (blankResponse .protocolMisuse), mode := .faulted } := rfl

end Sys2Proof.Machine
end

