-- ==== Sys2Proof/Laws/Ops.lean ====
section
/-! SUPPORT. What each shared operation can do, said once. -/

namespace Sys2Proof.Machine

variable {s t : State} {f : State → State}

/-- In an accepting state a request has its effect. -/
theorem accept_of_accepts (h : s.Accepts) (f : State → State) : accept s f = .next (f s) := by
  simp [accept, h.legal, h.ready]

/-- A request ends in a next state exactly when the state accepts it, and then that state is the effect's. -/
theorem accept_eq_next : accept s f = .next t ↔ s.Accepts ∧ t = f s := by
  constructor
  · intro h
    unfold accept at h
    split at h
    · cases hm : s.mode <;> simp_all
      exact ⟨‹_›, hm⟩
    · cases h
  · rintro ⟨h, rfl⟩
    exact accept_of_accepts h f

/-- In `Faulted` no request is accepted (R100). -/
theorem accept_faulted (hl : legalConfig s.cfg = true) (hm : s.mode = .faulted) (f : State → State) :
    accept s f = .fault .stuckInFaulted := by
  simp [accept, hl, hm]

/-- An illegal configuration is refused (R6). -/
theorem accept_illegal (hl : legalConfig s.cfg = false) (f : State → State) :
    accept s f = .refused .illegalConfiguration := by
  simp [accept, hl]

/-- A `cmd` value of the Command set gives that Command's response (R73). -/
theorem encodeSelector_of_some {cmd : BitVec 4} {c : Command} (h : commandOfSelector cmd = some c) (s : State) :
    encodeSelector cmd s = respond (commandResponse s.cfg c) s := by
  simp [encodeSelector, h]

/-- Any other `cmd` value raises ProtocolMisuse (R75). -/
theorem encodeSelector_of_none {cmd : BitVec 4} (h : commandOfSelector cmd = none) (s : State) :
    encodeSelector cmd s = raiseProtocolMisuse s := by
  simp [encodeSelector, h]

/-- A decoder whose groups pass leaves its response (R92). -/
@[simp] theorem decodeIfOk_true (r : Response) (s : State) : decodeIfOk true r s = respond r s := rfl

/-- A decoder with a failing group raises ChecksumMismatch (R92, R96). -/
@[simp] theorem decodeIfOk_false (r : Response) (s : State) :
    decodeIfOk false r s = raiseChecksumMismatch s := rfl

/-- The lookup finds a Command only where that Command's code is the word (R76). -/
theorem wireCode_of_commandOfWire {cfg : Config} {w : Word} {c : Command} (h : commandOfWire cfg w = some c) :
    wireCode cfg c = w := by
  simpa using List.find?_some h

/-- The lookup finds nothing only where no Command has the word (R58, R76). -/
theorem commandOfWire_eq_none {cfg : Config} {w : Word} :
    commandOfWire cfg w = none ↔ ∀ c, wireCode cfg c ≠ w := by
  simp only [commandOfWire, List.find?_eq_none, beq_iff_eq]
  exact ⟨fun h c => h c (by cases c <;> simp [allCommands]), fun h c _ => h c⟩

/-- A host's read changes nothing, and happens only where the port holds a value (R120, R121). -/
theorem hostRead_eq_next {p : Port} : hostRead p s = .next t ↔ t = s ∧ (readPort s p).isSome := by
  unfold hostRead
  cases readPort s p <;> simp [eq_comm]

/-- A legal configuration has six different wire codes (R6). -/
theorem wireCode_injective {cfg : Config} (h : legalConfig cfg = true) {a b : Command}
    (he : wireCode cfg a = wireCode cfg b) : a = b := by
  have hn : (allCommands.map (wireCode cfg)).Nodup := by
    simp only [legalConfig, Bool.and_eq_true, decide_eq_true_eq] at h
    exact h.1.1.1
  exact List.inj_on_of_nodup_map hn (by cases a <;> simp [allCommands]) (by cases b <;> simp [allCommands]) he

/-- The default configuration is legal (R5, R6). -/
theorem legalConfig_default : legalConfig Config.default = true := by decide

/-- The state after reset accepts a request (R112). -/
theorem reset_accepts : State.reset.Accepts := ⟨legalConfig_default, rfl⟩

end Sys2Proof.Machine
end

