-- ==== Sys2Proof/Laws/Exec.lean ====
section
/-! SUPPORT. What an instruction can do, said once: it leaves one response, a function of the configuration and the
instruction (10_state.md R15, R17, R29), and the mode follows that response's kind. Statements about instructions cite
`exec_eq_next` and the lemmas about `responseOf` instead of unfolding `exec`. -/

namespace Sys2Proof.Machine

/-- The response of `ENCODE` for a `cmd` value (R73, R75). -/
def encodeResponse (cfg : Config) (cmd : BitVec 4) : Response :=
  match commandOfSelector cmd with
  | some c => commandResponse cfg c
  | none => blankResponse .protocolMisuse

/-- The response of a decoder (R92). -/
def decoderResponse (groupsOk : Bool) (r : Response) : Response :=
  if groupsOk then r else blankResponse .checksumMismatch

/-- The response an accepted instruction leaves. -/
def responseOf (cfg : Config) : Instr → Response
  | .crc8 d0 d1 => crcResponse cfg d0 d1
  | .verify d0 d1 chk => verifyResponse cfg d0 d1 chk
  | .encode cmd _ => encodeResponse cfg cmd
  | .decodeCmd w0 w1 => lookupResponse cfg (wordOf w0 w1)
  | .decodeStatus m l c => decoderResponse (groupOk cfg m l c) (statusResponse (wordOf m l))
  | .decodeMeas tm tl tc hm hl hc =>
    decoderResponse (groupOk cfg tm tl tc && groupOk cfg hm hl hc)
      (measResponse cfg (wordOf tm tl) (wordOf hm hl))
  | .decodeSerial am al ac bm bl bc =>
    decoderResponse (groupOk cfg am al ac && groupOk cfg bm bl bc)
      (serialResponse (wordOf am al) (wordOf bm bl))
  | .encodeReadStatus => encodeResponse cfg 0x0
  | .encodeSoftReset => encodeResponse cfg 0x1
  | .encodeHeaterEnable => encodeResponse cfg 0x2
  | .encodeHeaterDisable => encodeResponse cfg 0x3
  | .encodeReadSerial => encodeResponse cfg 0x4
  | .encodeMeasure => encodeResponse cfg 0x5
  | .encodeReserved67 low => encodeResponse cfg ((3 : BitVec 3) ++ low)
  | .encodeReserved8F low => encodeResponse cfg ((1 : BitVec 1) ++ low)
  | .reservedOp7 => blankResponse .protocolMisuse
  | .reservedOp8F _ => blankResponse .protocolMisuse
  | .wireReadStatus => lookupResponse cfg readStatusCode
  | .wireSoftReset => lookupResponse cfg softResetCode
  | .wireHeaterEnable => lookupResponse cfg heaterEnableCode
  | .wireHeaterDisable => lookupResponse cfg heaterDisableCode
  | .wireReadSerial code => lookupResponse cfg code
  | .wireMeasure code => lookupResponse cfg code

/-- A response left in a state, with the mode its kind calls for (R17). -/
def leave (r : Response) (s : State) : State :=
  { s with resp := some r, mode := if r.kind = .protocolMisuse then .faulted else s.mode }

@[simp] theorem leave_cfg (r : Response) (s : State) : (leave r s).cfg = s.cfg := rfl
@[simp] theorem leave_resp (r : Response) (s : State) : (leave r s).resp = some r := rfl
@[simp] theorem leave_moves (r : Response) (s : State) : (leave r s).moves = s.moves := rfl
@[simp] theorem leave_mode (r : Response) (s : State) :
    (leave r s).mode = if r.kind = .protocolMisuse then .faulted else s.mode := rfl

/-- The lookup always answers `OK` (R76). -/
@[simp] theorem lookupResponse_kind (cfg : Config) (w : Word) : (lookupResponse cfg w).kind = .ok := by
  unfold lookupResponse; split <;> rfl

theorem encodeSelector_eq_leave (cmd : BitVec 4) (s : State) :
    encodeSelector cmd s = leave (encodeResponse s.cfg cmd) s := by
  unfold encodeSelector encodeResponse
  cases commandOfSelector cmd <;> rfl

theorem lookupWord_eq_leave (w : Word) (s : State) : lookupWord w s = leave (lookupResponse s.cfg w) s := by
  simp [lookupWord, respond, leave]

theorem decodeIfOk_eq_leave (b : Bool) {r : Response} (h : r.kind = .ok) (s : State) :
    decodeIfOk b r s = leave (decoderResponse b r) s := by
  cases b
  · rfl
  · simp [decodeIfOk, respond, leave, decoderResponse, h]

theorem respond_eq_leave {r : Response} (h : r.kind = .ok) (s : State) : respond r s = leave r s := by
  simp [respond, leave, h]

theorem raiseProtocolMisuse_eq_leave (s : State) :
    raiseProtocolMisuse s = leave (blankResponse .protocolMisuse) s := rfl

/-- Two effects that agree on a state leave it alike. -/
theorem accept_congr {s : State} {f g : State → State} (h : f s = g s) : accept s f = accept s g := by
  simp only [accept, h]

/-- An instruction is the leaving of its response, in a state that accepts it. -/
theorem exec_eq_accept (i : Instr) (s : State) : exec i s = accept s (leave (responseOf s.cfg i)) := by
  cases i <;>
    simp only [exec, execCrc8, execVerify, execEncode, execDecodeCmd, execDecodeStatus, execDecodeMeas,
      execDecodeSerial, execEncodeReadStatus, execEncodeSoftReset, execEncodeHeaterEnable,
      execEncodeHeaterDisable, execEncodeReadSerial, execEncodeMeasure, execEncodeReserved67,
      execEncodeReserved8F, execReservedOp7, execReservedOp8F, execWireReadStatus, execWireSoftReset,
      execWireHeaterEnable, execWireHeaterDisable, execWireReadSerial, execWireMeasure, responseOf] <;>
    apply accept_congr <;>
    first
    | exact respond_eq_leave rfl s
    | exact raiseProtocolMisuse_eq_leave s
    | exact encodeSelector_eq_leave _ s
    | exact lookupWord_eq_leave _ s
    | exact decodeIfOk_eq_leave _ rfl s

/-- An instruction ends in a next state exactly where it is accepted, and that state is determined. -/
theorem exec_eq_next {i : Instr} {s t : State} :
    exec i s = .next t ↔ s.Accepts ∧ t = leave (responseOf s.cfg i) s := by
  rw [exec_eq_accept]; exact accept_eq_next

@[simp] theorem decoderResponse_true (r : Response) : decoderResponse true r = r := rfl
@[simp] theorem decoderResponse_false (r : Response) :
    decoderResponse false r = blankResponse .checksumMismatch := rfl

/-- A selector's response is an OK or a ProtocolMisuse (R73, R75). -/
theorem encodeResponse_kind (cfg : Config) (cmd : BitVec 4) :
    (encodeResponse cfg cmd).kind = if 5 < cmd.toNat then .protocolMisuse else .ok := by
  unfold encodeResponse
  cases h : commandOfSelector cmd with
  | some c => rw [if_neg (by revert h; revert cmd; cases c <;> decide)]; rfl
  | none => rw [if_pos (by revert h; revert cmd; decide)]; rfl

end Sys2Proof.Machine
end

