-- ==== Sys2Proof/Laws/PerInstr.lean ====
section
/-! SUPPORT. Statements made for every instruction, one lemma per constructor. The family `OnItsRow`: the request an
instruction encodes to is on that instruction's row of the opcode table. -/

namespace Sys2Proof.Laws.OnItsRow

/-- The encoded request has the row's `match` under the row's `mask`. -/
def Statement (i : Instr) : Prop := encode i &&& rowMask i = rowMatch i

theorem crc8 (d0 d1 : Byte) : Statement (.crc8 d0 d1) := by
  exact (and_opMask _).trans (by rw [Sys2Proof.encode, reqOp_packRequest]; rfl)

theorem verify (d0 d1 chk : Byte) : Statement (.verify d0 d1 chk) := by
  exact (and_opMask _).trans (by rw [Sys2Proof.encode, reqOp_packRequest]; rfl)

theorem encode (cmd : BitVec 4) (ignored : BitVec 48) : Statement (.encode cmd ignored) := by
  exact (and_opMask _).trans (by rw [Sys2Proof.encode, reqOp_encodeForm]; rfl)

theorem decodeCmd (w0 w1 : Byte) : Statement (.decodeCmd w0 w1) := by
  exact (and_opMask _).trans (by rw [Sys2Proof.encode, reqOp_packRequest]; rfl)

theorem decodeStatus (m l c : Byte) : Statement (.decodeStatus m l c) := by
  exact (and_opMask _).trans (by rw [Sys2Proof.encode, reqOp_packRequest]; rfl)

theorem decodeMeas (tm tl tc hm hl hc : Byte) : Statement (.decodeMeas tm tl tc hm hl hc) := by
  exact (and_opMask _).trans (by rw [Sys2Proof.encode, reqOp_packRequest]; rfl)

theorem decodeSerial (am al ac bm bl bc : Byte) : Statement (.decodeSerial am al ac bm bl bc) := by
  exact (and_opMask _).trans (by rw [Sys2Proof.encode, reqOp_packRequest]; rfl)

theorem encodeReadStatus : Statement .encodeReadStatus := by unfold Statement; decide

theorem encodeSoftReset : Statement .encodeSoftReset := by unfold Statement; decide

theorem encodeHeaterEnable : Statement .encodeHeaterEnable := by unfold Statement; decide

theorem encodeHeaterDisable : Statement .encodeHeaterDisable := by unfold Statement; decide

theorem encodeReadSerial : Statement .encodeReadSerial := by unfold Statement; decide

theorem encodeMeasure : Statement .encodeMeasure := by unfold Statement; decide

theorem encodeReserved67 (low : BitVec 1) : Statement (.encodeReserved67 low) := by
  unfold Statement; revert low; decide

theorem encodeReserved8F (low : BitVec 3) : Statement (.encodeReserved8F low) := by
  unfold Statement; revert low; decide

theorem reservedOp7 : Statement .reservedOp7 := by unfold Statement; decide

theorem reservedOp8F (low : BitVec 3) : Statement (.reservedOp8F low) := by
  unfold Statement; revert low; decide

theorem wireReadStatus : Statement .wireReadStatus := by unfold Statement; decide

theorem wireSoftReset : Statement .wireSoftReset := by unfold Statement; decide

theorem wireHeaterEnable : Statement .wireHeaterEnable := by unfold Statement; decide

theorem wireHeaterDisable : Statement .wireHeaterDisable := by unfold Statement; decide

theorem wireReadSerial (code : Word) : Statement (.wireReadSerial code) := by
  exact (and_opMask _).trans (by rw [Sys2Proof.encode, lookupRequest, reqOp_packRequest]; rfl)

theorem wireMeasure (code : Word) : Statement (.wireMeasure code) := by
  exact (and_opMask _).trans (by rw [Sys2Proof.encode, lookupRequest, reqOp_packRequest]; rfl)

end Sys2Proof.Laws.OnItsRow
end

