-- ==== Sys2Proof/Laws/Step.lean ====
section
/-! SUPPORT. What a step can do, said once. -/

namespace Sys2Proof.Machine

/-- The block awaits a reset exactly in `Faulted` with a reset among the host's moves. -/
theorem awaitsReset_iff {m : Mode} {rest : List Move} :
    awaitsReset m rest = true ↔ m = .faulted ∧ Move.reset ∈ rest := by
  simp [awaitsReset]

/-- In `Ready` the block awaits no reset. -/
@[simp] theorem awaitsReset_ready (rest : List Move) : awaitsReset .ready rest = false := rfl

/-- A request is the instruction it decodes to, unless the block awaits a reset. -/
theorem step_request {s : State} {w : Request} {rest : List Move} (hm : s.moves = .request w :: rest)
    (ha : ¬(s.mode = .faulted ∧ Move.reset ∈ rest)) : step s = exec (decode w) { s with moves := rest } := by
  unfold step
  rw [hm]
  cases hl : legalConfig s.cfg with
  | true => simp [awaitsReset_iff, ha]
  | false =>
    rw [exec_eq_accept, accept_illegal (s := { s with moves := rest }) hl]
    rfl

/-- A request made while the block awaits a reset is passed over. -/
theorem step_request_awaiting {s : State} {w : Request} {rest : List Move} (hl : legalConfig s.cfg = true)
    (hm : s.moves = .request w :: rest) (hf : s.mode = .faulted) (hr : Move.reset ∈ rest) :
    step s = .next { s with moves := rest } := by
  unfold step
  rw [hm, if_pos hl]
  simp [awaitsReset_iff, hf, hr]

/-- A reset is taken from every state of a legal configuration. -/
theorem step_reset {s : State} {rest : List Move} (hl : legalConfig s.cfg = true) (hm : s.moves = .reset :: rest) :
    step s = .next (resetEvent { s with moves := rest }) := by
  unfold step
  rw [hm, if_pos hl]

/-- In `Faulted` no instruction has a step. -/
theorem exec_faulted (i : Instr) {s : State} (hl : legalConfig s.cfg = true) (hf : s.mode = .faulted) :
    exec i s = .fault .stuckInFaulted := by
  rw [exec_eq_accept]
  exact accept_faulted hl hf _

/-- A step that ends in a next state: the configuration is legal, and it found no move, ran a request, passed over a
request made while the block awaits a reset, read a port that holds a value, or was the reset event. -/
theorem step_cases {s t : State} (h : step s = .next t) :
    legalConfig s.cfg = true ∧
      ((s.moves = [] ∧ t = s) ∨
        (∃ w rest, s.moves = .request w :: rest ∧ exec (decode w) { s with moves := rest } = .next t) ∨
        (∃ w rest, s.moves = .request w :: rest ∧ s.mode = .faulted ∧ Move.reset ∈ rest ∧
          t = { s with moves := rest }) ∨
        (∃ p rest, s.moves = .read p :: rest ∧ t = { s with moves := rest } ∧ (readPort s p).isSome) ∨
        (∃ rest, s.moves = .reset :: rest ∧ t = resetEvent { s with moves := rest })) := by
  unfold step at h
  split at h
  case isFalse => cases h
  case isTrue hl =>
    refine ⟨hl, ?_⟩
    split at h
    case h_1 hm => cases h; exact .inl ⟨hm, rfl⟩
    case h_2 w rest hm =>
      split at h
      case isTrue ha =>
        cases h
        have := awaitsReset_iff.1 ha
        exact .inr (.inr (.inl ⟨w, rest, hm, this.1, this.2, rfl⟩))
      case isFalse => exact .inr (.inl ⟨w, rest, hm, h⟩)
    case h_3 p rest hm =>
      obtain ⟨ht, hp⟩ := hostRead_eq_next.1 h
      exact .inr (.inr (.inr (.inl ⟨p, rest, hm, ht, hp⟩)))
    case h_4 rest hm => cases h; exact .inr (.inr (.inr (.inr ⟨rest, hm, rfl⟩)))

end Sys2Proof.Machine
end

