-- ==== Sys2Proof/Tests/Slice0.lean ====
section
/-! SUPPORT. The model's own tests. Expected results are the spec's: the vectors of 95_test_vectors.md and the tables
of 30_encoding.md, cited at each group. The last section shows, for every statement with hypotheses, a state and
operands that meet them. -/

namespace Sys2Proof.Tests

open Sys2Proof.Machine

/-! ## Helpers -/

/-- The state after an outcome, if there is one. -/
def nextOf : Host.Outcome State Fault Refusal → Option State
  | .next s => some s
  | .fault _ => none
  | .refused _ => none

theorem nextOf_eq {o : Host.Outcome State Fault Refusal} {t : State} (h : nextOf o = some t) : o = .next t := by
  cases o <;> simp_all [nextOf]

/-- The block after reset, with configuration `cfg` and one request to run. -/
def offered (cfg : Config) (w : Request) : State := { State.reset with cfg := cfg, moves := [.request w] }

/-- The response to one request after reset. -/
def answer (cfg : Config) (w : Request) : Option Response := (nextOf (step (offered cfg w))).bind (·.resp)

/-- The response to one request after reset at the default configuration. -/
def reply (w : Request) : Option Response := answer Config.default w

/-- The block in `Faulted`, as an ENCODE of an undefined variant leaves it. -/
def faulted : State :=
  { State.reset with mode := .faulted, resp := some (blankResponse .protocolMisuse) }

/-! ## Well-formedness: an ill-formed term for each check -/

theorem test_wf_encode_with_no_ignored_bit : (Instr.encode 0x5 0).wellFormed = false := by decide
theorem test_wf_decodeCmd_of_a_row_word : (Instr.decodeCmd 0xF3 0x2D).wellFormed = false := by decide
theorem test_wf_readSerial_of_no_code : (Instr.wireReadSerial 0x3781).wellFormed = false := by decide
theorem test_wf_measure_of_no_code : (Instr.wireMeasure 0x2C07).wellFormed = false := by decide

/-! ## Decoding: a word for every constructor, from the tables of 30_encoding.md and 95_test_vectors.md V1 to V7 -/

theorem test_decode_crc8 : decode 0x00BEEF00000000 = .crc8 0xBE 0xEF := by decide
theorem test_decode_verify : decode 0x1FBEEF92000000 = .verify 0xBE 0xEF 0x92 := by decide
theorem test_decode_encode : decode 0x2A000000000001 = .encode 0xA 1 := by decide
theorem test_decode_decodeCmd : decode 0x30304100000000 = .decodeCmd 0x30 0x41 := by decide
theorem test_decode_decodeStatus : decode 0x408C1237000000 = .decodeStatus 0x8C 0x12 0x37 := by decide
theorem test_decode_decodeMeas :
    decode 0x506A3EE04C150A = .decodeMeas 0x6A 0x3E 0xE0 0x4C 0x15 0x0A := by decide
theorem test_decode_decodeSerial :
    decode 0x6012343756787D = .decodeSerial 0x12 0x34 0x37 0x56 0x78 0x7D := by decide
theorem test_decode_encodeReadStatus : decode 0x20000000000000 = .encodeReadStatus := by decide
theorem test_decode_encodeSoftReset : decode 0x21000000000000 = .encodeSoftReset := by decide
theorem test_decode_encodeHeaterEnable : decode 0x22000000000000 = .encodeHeaterEnable := by decide
theorem test_decode_encodeHeaterDisable : decode 0x23000000000000 = .encodeHeaterDisable := by decide
theorem test_decode_encodeReadSerial : decode 0x24000000000000 = .encodeReadSerial := by decide
theorem test_decode_encodeMeasure : decode 0x25000000000000 = .encodeMeasure := by decide
theorem test_decode_encodeReserved67 : decode 0x27000000000000 = .encodeReserved67 1 := by decide
theorem test_decode_encodeReserved8F : decode 0x2B000000000000 = .encodeReserved8F 3 := by decide
theorem test_decode_reservedOp7 : decode 0x70000000000000 = .reservedOp7 := by decide
theorem test_decode_reservedOp8F : decode 0xF0BEEF92000000 = .reservedOp8F 7 := by decide
theorem test_decode_wireReadStatus : decode 0x30F32D00000000 = .wireReadStatus := by decide
theorem test_decode_wireSoftReset : decode 0x3030A200000000 = .wireSoftReset := by decide
theorem test_decode_wireHeaterEnable : decode 0x30306D00000000 = .wireHeaterEnable := by decide
theorem test_decode_wireHeaterDisable : decode 0x30306600000000 = .wireHeaterDisable := by decide
theorem test_decode_wireReadSerial : decode 0x30378000000000 = .wireReadSerial 0x3780 := by decide
theorem test_decode_wireMeasure : decode 0x302C0600000000 = .wireMeasure 0x2C06 := by decide

theorem test_tableWord_wire_row : decodeTableWord 16 0x30A2 = some .wireSoftReset := by decide
theorem test_tableWord_request_row : decodeTableWord 56 0x70000000000000 = some .reservedOp7 := by decide
theorem test_tableWord_too_wide : decodeTableWord 16 0x10000 = none := by decide
theorem test_decodeBytes : decodeBytes [0x10, 0xBE, 0xEF, 0x92, 0, 0, 0] = .ok (.verify 0xBE 0xEF 0x92) := by rfl
theorem test_decodeBytes_short : decodeBytes [0x10, 0xBE] = .error (.tooShort 2) := by rfl
theorem test_encode_measure : encode .encodeMeasure = 0x25000000000000 := by decide
theorem test_heater_pseudo : assemble (.encodeHeater 1) = some 0x22000000000000 := by decide
theorem test_asm_byte_too_big : assemble (.verify 0xBE 0xEF 256) = none := by decide

/-! ## The Checksum Unit: 95_test_vectors.md S1, S8, V1 -/

theorem test_crc_beef : reply 0x00BEEF00000000 = some { blankResponse .ok with crc := some 0x92 } := by decide +kernel
theorem test_crc_ff00 : reply 0x00FF0000000000 = some { blankResponse .ok with crc := some 0x00 } := by decide +kernel
theorem test_crc_first_byte : crc8Update 0x31 0xFF 0xBE = 0x0C := by decide
theorem test_verify_ignored_bits :
    reply 0x10BEEF92FFFFFF = some { blankResponse .ok with matched := some true } := by decide +kernel
theorem test_verify_flipped_msb :
    reply 0x10BEEF12000000 = some { blankResponse .ok with matched := some false } := by decide +kernel
/-- The catalogue check value of the default parameters over "123456789" (S8). -/
theorem test_crc_catalogue_value :
    ([0x31, 0x32, 0x33, 0x34, 0x35, 0x36, 0x37, 0x38, 0x39] : List Byte).foldl (crc8Update 0x31) 0xFF = 0xF7 := by
  decide +kernel

/-! ## The command side: 95_test_vectors.md V2, V3 -/

theorem test_encode_readStatus : reply 0x20000000000000 =
    some { blankResponse .ok with wire0 := some 0xF3, wire1 := some 0x2D, rlen := some 3 } := by decide
theorem test_encode_softReset : reply 0x21000000000000 =
    some { blankResponse .ok with wire0 := some 0x30, wire1 := some 0xA2, rlen := some 0 } := by decide
theorem test_encode_heaterEnable : reply 0x22000000000000 =
    some { blankResponse .ok with wire0 := some 0x30, wire1 := some 0x6D, rlen := some 0 } := by decide
theorem test_encode_heaterDisable : reply 0x23000000000000 =
    some { blankResponse .ok with wire0 := some 0x30, wire1 := some 0x66, rlen := some 0 } := by decide
theorem test_encode_readSerial_3682 :
    answer { Config.default with serialCmd := 0x3682 } 0x24000000000000 =
      some { blankResponse .ok with wire0 := some 0x36, wire1 := some 0x82, rlen := some 6 } := by decide
theorem test_encode_measure_2400 :
    answer { Config.default with measCmd := 0x2400 } 0x25000000000000 =
      some { blankResponse .ok with wire0 := some 0x24, wire1 := some 0x00, rlen := some 6 } := by decide
theorem test_encode_general : reply 0x25FFFFFFFFFFFF =
    some { blankResponse .ok with wire0 := some 0x2C, wire1 := some 0x06, rlen := some 6 } := by decide
theorem test_encode_reserved67 : reply 0x26000000000000 = some (blankResponse .protocolMisuse) := by decide
theorem test_encode_reserved8F :
    (nextOf (step (offered Config.default 0x2F000000000000))).map (·.mode) = some .faulted := by decide
theorem test_lookup_readStatus : reply 0x30F32D00000000 =
    some { blankResponse .ok with cmdValid := some true, cmdOut := some 0x0 } := by decide
theorem test_lookup_softReset : reply 0x3030A200000000 =
    some { blankResponse .ok with cmdValid := some true, cmdOut := some 0x1 } := by decide
theorem test_lookup_heaterEnable : reply 0x30306D00000000 =
    some { blankResponse .ok with cmdValid := some true, cmdOut := some 0x2 } := by decide
theorem test_lookup_heaterDisable : reply 0x30306600000000 =
    some { blankResponse .ok with cmdValid := some true, cmdOut := some 0x3 } := by decide
theorem test_lookup_readSerial : reply 0x30378000000000 =
    some { blankResponse .ok with cmdValid := some true, cmdOut := some 0x4 } := by decide
theorem test_lookup_unchosen_serial : reply 0x30368200000000 =
    some { blankResponse .ok with cmdValid := some false } := by decide
theorem test_lookup_measure : reply 0x302C0600000000 =
    some { blankResponse .ok with cmdValid := some true, cmdOut := some 0x5 } := by decide
theorem test_lookup_unchosen_measure : reply 0x30240000000000 =
    some { blankResponse .ok with cmdValid := some false } := by decide
theorem test_lookup_swapped_bytes : reply 0x302DF300000000 =
    some { blankResponse .ok with cmdValid := some false } := by decide

/-! ## The decoders: 95_test_vectors.md S3, S4, S7, V4 to V6 -/

theorem test_status_8C12 : reply 0x408C1237000000 = some { blankResponse .ok with
    status := some 0x8C12, alertPending := some true, heaterActive := some false, rhAlert := some true
    tAlert := some true, resetDetected := some true, commandStatus := some true
    checksumStatus := some false } := by decide +kernel
theorem test_status_all_zero : reply 0x40000000000000 = some (blankResponse .checksumMismatch) := by decide +kernel
theorem test_serial_halves : reply 0x608000A20001B0 =
    some { blankResponse .ok with serial := some 0x80000001 } := by decide +kernel
theorem test_serial_second_group : reply 0x60123437567879 = some (blankResponse .checksumMismatch) := by decide +kernel
theorem test_meas_humidity_group : reply 0x50666693666692 = some (blankResponse .checksumMismatch) := by decide +kernel
/-- V5, `Seq64`: 0x1.ba0aaa0aaa0acp+4 and 0x1.db851b851b852p+4. -/
theorem test_meas_seq64 : reply 0x506A3EE04C150A = some { blankResponse .ok with
    rawT := some 0x6A3E, rawRh := some 0x4C15, temp := some (.binary64 0x403BA0AAA0AAA0AC)
    hum := some (.binary64 0x403DB851B851B852) } := by decide +kernel
/-- V5, `CR64`: 0x1.ba0aaa0aaa0abp+4. -/
theorem test_meas_cr64 : temperature .cr64 0x6A3E = .binary64 0x403BA0AAA0AAA0AB := by decide +kernel
/-- V5, `Exact`: 120705/4369 and 389540/13107. -/
theorem test_meas_exact :
    temperature .exact 0x6A3E = .exact (120705 / 4369) ∧ humidity .exact 0x4C15 = .exact (389540 / 13107) := by
  decide +kernel
/-- V5, the cancellation corner: 0x1.9001900180000p-12 in `Seq64` and 0x1.9001900190019p-12 in `CR64`. -/
theorem test_meas_near_zero :
    temperature .seq64 0x41D4 = .binary64 0x3F39001900180000 ∧
      temperature .cr64 0x41D4 = .binary64 0x3F39001900190019 := by decide +kernel
/-- V5: -0x1.67fa87fa87fa8p+5, a negative reading. -/
theorem test_meas_negative : temperature .seq64 0x0001 = .binary64 0xC0467FA87FA87FA8 := by decide +kernel

/-! ## Reserved, Faulted and reset: 95_test_vectors.md V7, P4 -/

theorem test_reserved_op7 : reply 0x70000000000000 = some (blankResponse .protocolMisuse) := by decide
theorem test_reserved_opF :
    (nextOf (step (offered Config.default 0xF0BEEF92000000))).map (·.mode) = some .faulted := by decide
theorem test_faulted_is_stuck :
    step { faulted with moves := [.request 0x00BEEF00000000] } = .fault .stuckInFaulted := by rfl
/-- P4, steps 6 and 7: the request has no step, and the reset after it is still to be taken. -/
theorem test_faulted_request_before_reset :
    step { faulted with moves := [.request 0x00BEEF00000000, .reset] } = .next { faulted with moves := [.reset] } := by
  rfl
theorem test_faulted_reset_then_crc :
    ((nextOf (step { faulted with moves := [.reset, .request 0x00BEEF00000000] })).bind
      (fun s => (nextOf (step s)).bind (·.resp))) = some { blankResponse .ok with crc := some 0x92 } := by decide +kernel
theorem test_read_before_first_response :
    step { State.reset with moves := [.read .kind] } = .fault (.readOfNoValue .kind) := by rfl
theorem test_illegal_poly_refused :
    step { offered Config.default 0 with cfg := { Config.default with crcPoly := 0x30 } } =
      .refused .illegalConfiguration := by rfl
theorem test_first_instruction_after_reset :
    (nextOf (step (State.reset.withFetchWord 16 0xF32D))).bind (·.resp) =
      some { blankResponse .ok with cmdValid := some true, cmdOut := some 0 } := by decide
theorem test_driver_reads_six_bytes :
    responseLength (driverCommand .readValues) = 6 ∧ decoderOp (driverCommand .readValues) = some 5 ∧
      responseGroups (driverCommand .readStatus) = 1 := by decide

/-! ## Witnesses: a state and operands that meet the hypotheses of each statement

The theorem `witness_<statement>` names the statement it belongs to. Values at both ends of each clause's range. -/

/-- A legal configuration in which every parameter of the block differs from its default. -/
def otherConfig : Config where
  crcPoly := 0x07
  crcInit := 0x00
  crcXorOut := 0x55
  measCmd := 0x2416
  serialCmd := 0x3682
  convMode := .cr64
  addr0 := 0x45
  addr1 := 0x44

/-- The block after reset with another legal configuration. -/
def other : State := { State.reset with cfg := otherConfig }

/-- The block after reset with the `Exact` conversions. -/
def exactly : State := { State.reset with cfg := { Config.default with convMode := .exact } }

/-- What an instruction leaves in the state after reset. -/
def after (i : Instr) : State := leave (responseOf Config.default i) State.reset

theorem exec_after (i : Instr) : exec i State.reset = .next (after i) := exec_eq_next.2 ⟨reset_accepts, rfl⟩

theorem other_accepts : other.Accepts := ⟨by decide, rfl⟩
theorem exactly_accepts : exactly.Accepts := ⟨by decide, rfl⟩
theorem faulted_legal : legalConfig faulted.cfg = true ∧ faulted.mode = .faulted := by decide

theorem witness_Crc8ComputesTheChecksum :
    other.Accepts ∧ (legalConfig faulted.cfg = true ∧ faulted.mode = .faulted) ∧ reqOp 0x0FFFFFFFFFFFFF = 0x0 ∧
      (State.reset.Accepts ∧ State.reset.cfg = Config.default) :=
  ⟨other_accepts, faulted_legal, by decide, reset_accepts, rfl⟩
theorem witness_Crc8CornerCases : State.reset.Accepts ∧ State.reset.cfg = Config.default := ⟨reset_accepts, rfl⟩
theorem witness_VerifyComparesTheCheckByte :
    other.Accepts ∧ (State.reset.Accepts ∧ State.reset.cfg = Config.default) ∧ reqOp 0x1FFFFFFFFFFFFF = 0x1 :=
  ⟨other_accepts, ⟨reset_accepts, rfl⟩, by decide⟩
theorem witness_ChecksumIsTheRemainderByTheGenerator : ∃ f : Byte → Polynomial (ZMod 2),
    ∀ b, f b = ∑ i ∈ Finset.range 8, if b.getLsbD i then Polynomial.X ^ i else 0 := ⟨_, fun _ => rfl⟩
theorem witness_ChecksumIsAffineWithZeroResidue : Config.default.crcXorOut = 0x00 := rfl
theorem witness_VerifyDetectsEveryWrongCheckByte : other.Accepts ∧ (0x01 : Byte) ≠ 0 ∧ (0xFF : Byte) ≠ 0 :=
  ⟨other_accepts, by decide, by decide⟩
theorem witness_GroupCodeHasMinimumDistanceFour :
    ∃ (ok : BitVec 24 → Bool) (weight : BitVec 24 → Nat),
      (∀ g, ok g = groupOk Config.default (g.extractLsb' 16 8) (g.extractLsb' 8 8) (g.extractLsb' 0 8)) ∧
      (∀ e, weight e = ((List.range 24).filter fun i => e.getLsbD i).length) ∧
      ok 0xBEEF92 = true ∧ weight 0x800001 ≤ 3 ∧ weight 0x00001F % 2 = 1 ∧
      (∃ (p : Byte) (k : Nat), (0xFF0000 : BitVec 24) = p.zeroExtend 24 <<< k) :=
  ⟨_, _, fun _ => rfl, fun _ => rfl, by decide +kernel, by decide, by decide, 0xFF, 16, by decide⟩
theorem witness_CommandSideNeverUsesTheChecksum :
    State.reset.Accepts ∧ (0x01 : Byte).getLsbD 0 = true ∧ (0xFF : Byte).getLsbD 0 = true :=
  ⟨reset_accepts, by decide, by decide⟩
theorem witness_EncodeProducesTheWireSequence :
    other.Accepts ∧ (0x0 : BitVec 4).toNat ≤ 5 ∧ (0x5 : BitVec 4).toNat ≤ 5 := ⟨other_accepts, by decide, by decide⟩
theorem witness_CommandRowsProduceTheirBytesAndLength : State.reset.Accepts ∧ other.Accepts :=
  ⟨reset_accepts, other_accepts⟩
theorem witness_UndefinedVariantIsProtocolMisuse :
    other.Accepts ∧ 6 ≤ (0x6 : BitVec 4).toNat ∧ 6 ≤ (0xF : BitVec 4).toNat ∧
      (reqOp 0x26000000000000 = 0x2 ∧ 6 ≤ (reqCmd 0x26000000000000).toNat) ∧
      (reqOp 0x2FFFFFFFFFFFFF = 0x2 ∧ 6 ≤ (reqCmd 0x2FFFFFFFFFFFFF).toNat) :=
  ⟨other_accepts, by decide, by decide, by decide, by decide⟩
theorem witness_DecodeCmdLooksUpTheWord :
    (State.reset.Accepts ∧ State.reset.cfg = Config.default) ∧
      wireCode State.reset.cfg .measure = (0x2C : Byte) ++ (0x06 : Byte) ∧
      (∀ c : Command, wireCode State.reset.cfg c ≠ (0x24 : Byte) ++ (0x00 : Byte)) ∧
      wireCode otherConfig .readSerial = (0x36 : Byte) ++ (0x82 : Byte) ∧ legalConfig otherConfig = true ∧
      reqOp 0x3FFFFFFFFFFFFF = 0x3 :=
  ⟨⟨reset_accepts, rfl⟩, by decide, by intro c; cases c <;> decide, by decide, by decide, by decide⟩
theorem witness_WireRowsLookUpTheirWord :
    other.Accepts ∧ (Instr.wireReadSerial 0x3682).wellFormed = true ∧ (Instr.wireReadSerial 0x3780).wellFormed = true ∧
      (Instr.wireMeasure 0x2416).wellFormed = true ∧ (Instr.wireMeasure 0x2C06).wellFormed = true :=
  ⟨other_accepts, by decide, by decide, by decide, by decide⟩
theorem witness_EncodedCommandDecodesToItsSelector :
    State.reset.Accepts ∧ (0x0 : BitVec 4).toNat ≤ 5 ∧ (0x5 : BitVec 4).toNat ≤ 5 ∧ (0x5 : BitVec 4) ≠ 0x0 ∧
      exec (.encode 0x5 1) State.reset = .next (after (.encode 0x5 1)) ∧ (after (.encode 0x5 1)).resp.isSome :=
  ⟨reset_accepts, by decide, by decide, by decide, exec_after _, by decide⟩
theorem witness_EncodeSoftResetDoesNotResetTheBlock : other.Accepts := other_accepts
theorem witness_EachCommandsDecoderReadsItsResponse :
    decoderOp .readStatus = some (reqOp 0x408010E1000000) ∧ decoderOp .measure = some (reqOp 0x5FFFFFFFFFFFFF) ∧
      decoderOp .readSerial = some (reqOp 0x6F000000000000) := by decide
theorem witness_DecodeStatusDecodesItsGroup :
    (State.reset.Accepts ∧ State.reset.cfg = Config.default) ∧
      crc8 State.reset.cfg 0x80 0x10 = 0xE1 ∧ (0x8010 : Word) = (0x80 : Byte) ++ (0x10 : Byte) ∧
      crc8 State.reset.cfg 0x80 0x10 ≠ 0x00 ∧ reqOp 0x4FFFFFFFFFFFFF = 0x4 :=
  ⟨⟨reset_accepts, rfl⟩, by decide +kernel, by decide, by decide +kernel, by decide⟩
theorem witness_ReservedStatusBitsAreCopiedUnchecked :
    other.Accepts ∧ (0x53EC : Word) &&& 0xAC13 = 0 ∧ (0 : Word) &&& 0xAC13 = 0 ∧
      ((0xD3 : Byte) ++ (0xFC : Byte) : Word) = ((0x80 : Byte) ++ (0x10 : Byte)) ^^^ (0x53EC : Word) :=
  ⟨other_accepts, by decide, by decide, by decide⟩
theorem witness_DecodeMeasDecodesTwoGroups :
    State.reset.Accepts ∧ (crc8 State.reset.cfg 0x66 0x66 = 0x93 ∧ crc8 State.reset.cfg 0x4C 0x15 = 0x0A) ∧
      ¬(crc8 State.reset.cfg 0x66 0x66 = 0x93 ∧ crc8 State.reset.cfg 0x4C 0x15 = 0x0B) ∧
      ¬(crc8 State.reset.cfg 0x66 0x66 = 0x92 ∧ crc8 State.reset.cfg 0x4C 0x15 = 0x0A) ∧
      reqOp 0x5FFFFFFFFFFFFF = 0x5 :=
  ⟨reset_accepts, by decide +kernel, by decide +kernel, by decide +kernel, by decide⟩
theorem witness_DecodeSerialDecodesTwoGroups :
    (State.reset.Accepts ∧ State.reset.cfg = Config.default) ∧
      (crc8 State.reset.cfg 0x12 0x34 = 0x37 ∧ crc8 State.reset.cfg 0x56 0x78 = 0x7D) ∧
      ¬(crc8 State.reset.cfg 0x12 0x34 = 0x37 ∧ crc8 State.reset.cfg 0x56 0x78 = 0x79) ∧
      reqOp 0x6FFFFFFFFFFFFF = 0x6 :=
  ⟨⟨reset_accepts, rfl⟩, by decide +kernel, by decide +kernel, by decide⟩
/-- For each decoder a request that passes and one that fails, in its second group where it reads two. -/
theorem witness_DecoderResponsesAreAllOrNothing :
    State.reset.Accepts ∧
      failingGroup State.reset.cfg (.decodeStatus 0x80 0x10 0xE1) = false ∧
      failingGroup State.reset.cfg (.decodeStatus 0x80 0x10 0xE0) = true ∧
      failingGroup State.reset.cfg (.decodeMeas 0x66 0x66 0x93 0x4C 0x15 0x0A) = false ∧
      failingGroup State.reset.cfg (.decodeMeas 0x66 0x66 0x93 0x4C 0x15 0x0B) = true ∧
      failingGroup State.reset.cfg (.decodeSerial 0x12 0x34 0x37 0x56 0x78 0x7D) = false ∧
      failingGroup State.reset.cfg (.decodeSerial 0x12 0x34 0x37 0x56 0x78 0x79) = true :=
  ⟨reset_accepts, by decide +kernel⟩
/-- For each decoder, a request whose only failing group is its first. -/
theorem witness_ChecksumMismatchLeavesItsKindAlone :
    State.reset.Accepts ∧ failingGroup State.reset.cfg (.decodeStatus 0x00 0x00 0x00) = true ∧
      failingGroup State.reset.cfg (.decodeMeas 0x66 0x66 0x92 0x4C 0x15 0x0A) = true ∧
      failingGroup State.reset.cfg (.decodeSerial 0x12 0x34 0x36 0x56 0x78 0x7D) = true :=
  ⟨reset_accepts, by decide +kernel⟩
theorem witness_ChecksumMismatchIsNotSticky :
    exec (.decodeStatus 0 0 0) State.reset = .next (after (.decodeStatus 0 0 0)) ∧
      (after (.decodeStatus 0 0 0)).resp = some (blankResponse .checksumMismatch) :=
  ⟨exec_after _, by decide +kernel⟩
theorem witness_ExactConversionsAreTheDocumentsFormulas : exactly.Accepts ∧ exactly.cfg.convMode = .exact :=
  ⟨exactly_accepts, rfl⟩
/-- A number half way between two binary64 values, and the one of the two it is not rounded to. -/
theorem witness_Fl64IsNearestTiesToEven :
    (∃ B : Rat → Prop, ∀ y, B y ↔ ∃ m k : Int, |m| ≤ 2 ^ 53 ∧ -1074 ≤ k ∧ y = (m : Rat) * (2 : Rat) ^ k) ∧
      (∃ m k : Int, |m| ≤ 2 ^ 53 ∧ -1074 ≤ k ∧ (1 + 1 / 2 ^ 52 : Rat) = (m : Rat) * (2 : Rat) ^ k) ∧
      (1 + 1 / 2 ^ 52 : Rat) ≠ fl64 (1 + 1 / 2 ^ 53) ∧
      |(1 + 1 / 2 ^ 53 : Rat) - (1 + 1 / 2 ^ 52)| = |(1 + 1 / 2 ^ 53 : Rat) - fl64 (1 + 1 / 2 ^ 53)| :=
  ⟨⟨_, fun _ => Iff.rfl⟩, ⟨2 ^ 52 + 1, -52, by norm_num, by norm_num, by norm_num⟩, by decide +kernel,
    by decide +kernel⟩
theorem witness_PackedBitsHoldTheRoundedValue :
    |(0 : Rat)| ≤ 2 ^ 1023 ∧ |(-45 : Rat)| ≤ 2 ^ 1023 ∧ |(-2 ^ 1023 : Rat)| ≤ 2 ^ 1023 :=
  ⟨by simp, by
    rw [abs_neg, abs_of_pos (by norm_num)]
    exact (by norm_num : (45 : Rat) ≤ 2 ^ 6).trans (pow_le_pow_right₀ (by norm_num) (by norm_num)),
    by rw [abs_neg, abs_of_pos (by positivity)]⟩
theorem witness_ReadingsHaveTheTypeAndValueOfTheirMode : ConvMode.seq64 ≠ .exact ∧ ConvMode.cr64 ≠ .exact := by
  decide
theorem witness_ConversionsAreMonotoneAndAccurate :
    (0x0000 : Word) < 0x0001 ∧ (0xFFFE : Word) < 0xFFFF := by decide
theorem witness_DecodeOfEncodeIsTheInstruction :
    (Instr.encode 0xF 1).wellFormed = true ∧ (Instr.decodeCmd 0xFF 0xFF).wellFormed = true ∧
      (Instr.wireReadSerial 0x3682).wellFormed = true ∧ (Instr.wireMeasure 0x240B).wellFormed = true ∧
      (Instr.reservedOp8F 7).wellFormed = true := by decide
/-- Requests that agree on what VERIFY reads, and two ENCODE requests of one `cmd`; a line and its request. -/
theorem witness_IgnoredFieldsChangeNothing :
    (reqOp 0x10BEEF92000000 = reqOp 0x1FBEEF92FFFFFF ∧ reqOp 0x10BEEF92000000 ≠ 0x2 ∧
      ∀ k, k < bytesRead (reqOp 0x10BEEF92000000) → reqByte 0x10BEEF92000000 k = reqByte 0x1FBEEF92FFFFFF k) ∧
      (reqOp 0x26000000000000 = reqOp 0x26FFFFFFFFFFFF ∧ reqCmd 0x26000000000000 = reqCmd 0x26FFFFFFFFFFFF ∧
        bytesRead (reqOp 0x26000000000000) = 0) ∧
      assemble (.verify 0xBE 0xEF 0x92) = some 0x10BEEF92000000 ∧ reqOp 0x10BEEF92000000 ≠ 0x2 ∧
      bytesRead (reqOp 0x10BEEF92000000) ≤ 3 := by decide
/-- The least number too large for a byte, in the first and the last operand, and for a request word. -/
theorem witness_AssemblerFormsBecomeTheirRequests :
    (256 ≤ 256 ∨ 256 ≤ 0) ∧ (256 ≤ 0 ∨ 256 ≤ 0 ∨ 256 ≤ 256) ∧
      (256 ≤ 0 ∨ 256 ≤ 0 ∨ 256 ≤ 0 ∨ 256 ≤ 0 ∨ 256 ≤ 0 ∨ 256 ≤ 256) ∧ 2 ^ 56 ≤ 2 ^ 56 := by decide
theorem witness_StepRunsTheDecodedInstruction :
    decodeTableWord 56 0xF0000000000000 = some (.reservedOp8F 7) ∧
      decodeTableWord 16 0x2416 = some (.wireMeasure 0x2416) ∧
      ¬(State.reset.mode = .faulted ∧ Move.reset ∈ [Move.reset]) ∧ ¬(faulted.mode = .faulted ∧ Move.reset ∈ []) ∧
      (legalConfig faulted.cfg = true ∧ faulted.mode = .faulted ∧ Move.reset ∈ [Move.read .kind, .reset]) := by decide
theorem witness_InstructionStepsExactlyWhenNotFaulted :
    legalConfig State.reset.cfg = true ∧ exec .reservedOp7 State.reset = .next (after .reservedOp7) ∧
      exec (.crc8 0 0) State.reset = .next (after (.crc8 0 0)) ∧ legalConfig faulted.cfg = true :=
  ⟨by decide, exec_after _, exec_after _, by decide⟩
theorem witness_ReservedSelectorIsProtocolMisuse :
    other.Accepts ∧ 7 ≤ (reqOp 0x70000000000000).toNat ∧ 7 ≤ (reqOp 0xFFFFFFFFFFFFFF).toNat :=
  ⟨other_accepts, by decide, by decide⟩
/-- In `Faulted`: no move, a read of `kind`, a reset; and a run that reaches it at its first move. -/
theorem witness_FaultedIsLeftByResetOnly :
    (legalConfig faulted.cfg = true ∧ faulted.mode = .faulted) ∧ step faulted = .next faulted ∧
      step { faulted with moves := [.read .kind] } = .next faulted ∧
      step { faulted with moves := [.reset] } = .next State.reset ∧
      (1 ≤ (offered Config.default 0x70000000000000).moves.length ∧
        State.run 1 (offered Config.default 0x70000000000000) = .next faulted) :=
  ⟨faulted_legal, rfl, rfl, rfl, by decide, rfl⟩
theorem witness_RunsEndWellUnlessTheyFault : (offered Config.default 0x70000000000000).Accepts := ⟨by decide, rfl⟩
theorem witness_ModeIsWrittenByMisuseAndResetAlone :
    step (offered Config.default 0x2F000000000000) = .next faulted ∧ State.reset.mode = .ready ∧
      faulted.mode = .faulted ∧ step { faulted with moves := [.reset] } = .next State.reset ∧
      legalConfig faulted.cfg = true :=
  ⟨rfl, rfl, rfl, rfl, by decide⟩
/-- A request for each condition of the order, in both modes. -/
theorem witness_ConditionsAreTakenInOrder :
    (legalConfig faulted.cfg = true ∧ faulted.mode = .faulted) ∧
      (legalConfig State.reset.cfg = true ∧ State.reset.mode = .ready) ∧
      7 ≤ (reqOp 0x70000000000000).toNat ∧ (reqOp 0x26000000000000 = 0x2 ∧ 5 < (reqCmd 0x26000000000000).toNat) ∧
      (reply 0x40000000000000).map (·.kind) = some .checksumMismatch ∧
      (reply 0x50666693666692).map (·.kind) = some .checksumMismatch ∧
      (reply 0x60123437567879).map (·.kind) = some .checksumMismatch ∧
      (reply 0x25000000000000).map (·.kind) = some .ok := by decide +kernel
theorem witness_ErrorKindsHaveTheirCausesAndCodes :
    (exec (.decodeStatus 0 0 0) State.reset = .next (after (.decodeStatus 0 0 0)) ∧
      (after (.decodeStatus 0 0 0)).resp.map (·.kind) = some .checksumMismatch) ∧
      (exec (.encode 0x6 1) State.reset = .next (after (.encode 0x6 1)) ∧
        (after (.encode 0x6 1)).resp.map (·.kind) = some .protocolMisuse) :=
  ⟨⟨exec_after _, by decide +kernel⟩, exec_after _, by decide⟩
theorem witness_NegativeResultsAreNotErrors :
    State.reset.Accepts ∧ (0x93 : Byte) ≠ crc8 State.reset.cfg 0xBE 0xEF ∧
      (∀ c, wireCode State.reset.cfg c ≠ (0x00 : Byte) ++ (0x00 : Byte)) :=
  ⟨reset_accepts, by decide +kernel, by intro c; cases c <;> decide⟩
theorem witness_ResponsesAreHeldAndReplacedWhole :
    step faulted = .next faulted ∧ exec .reservedOp7 State.reset = .next (after .reservedOp7) ∧
      (after .reservedOp7).resp = some (blankResponse .protocolMisuse) ∧ Kind.protocolMisuse ≠ .ok :=
  ⟨rfl, exec_after _, by decide, by decide⟩
theorem witness_ResponseFieldsAreTheOperationsRow :
    exec (.decodeCmd 0 0) State.reset = .next (after (.decodeCmd 0 0)) ∧
      (after (.decodeCmd 0 0)).resp = some { blankResponse .ok with cmdValid := some false } :=
  ⟨exec_after _, by decide⟩
/-- Two states that differ in the response, with the three outcomes of a request. -/
theorem witness_ResponseIsAFunctionOfRequestAndMode :
    (State.reset.cfg = (after (.crc8 0 0)).cfg ∧ State.reset.mode = (after (.crc8 0 0)).mode) ∧
      exec (.crc8 0 0) State.reset = .next (after (.crc8 0 0)) ∧
      exec (.crc8 0 0) faulted = .fault .stuckInFaulted ∧
      exec (.crc8 0 0) { State.reset with cfg := { Config.default with crcPoly := 0x30 } } =
        .refused .illegalConfiguration :=
  ⟨⟨rfl, rfl⟩, exec_after _, rfl, rfl⟩
theorem witness_RequestsAreIdempotent :
    (exec (.crc8 0 0) State.reset = .next (after (.crc8 0 0)) ∧ (after (.crc8 0 0)).mode = .ready) ∧
      (exec .reservedOp7 State.reset = .next (after .reservedOp7) ∧ (after .reservedOp7).mode = .faulted) :=
  ⟨⟨exec_after _, rfl⟩, exec_after _, rfl⟩
theorem witness_ResetEventMakesTheBlockReady :
    legalConfig ({ faulted with moves := [.reset] } : State).cfg = true ∧
      ({ faulted with moves := [.reset] } : State).moves = [.reset] ∧
      (legalConfig faulted.cfg = true ∧ faulted.mode = .faulted) ∧
      step { faulted with moves := [.reset] } = .next State.reset ∧ State.reset.mode ≠ faulted.mode ∧
      step (offered Config.default 0x2F000000000000) = .next faulted ∧ faulted.resp ≠ State.reset.resp :=
  ⟨by decide, by decide, by decide, rfl, by decide, rfl, by decide⟩
theorem witness_RequestAfterResetRunsAsAfterAnyResponse :
    (after (.crc8 0 0)).Accepts ∧ (after (.crc8 0 0)).cfg = faulted.cfg ∧ (after (.crc8 0 0)).moves = faulted.moves :=
  ⟨⟨by decide, rfl⟩, rfl, rfl⟩
/-- A read that faults and one that does not; an error response; a lookup that found nothing. -/
theorem witness_ReadingNoValueFaults :
    (legalConfig faulted.cfg = true ∧ readPort faulted .serial = none ∧ (readPort faulted .kind).isSome) ∧
      (exec .reservedOp7 State.reset = .next (after .reservedOp7) ∧
        (after .reservedOp7).resp = some (blankResponse .protocolMisuse) ∧ Port.crc ≠ .kind) ∧
      (exec (.decodeCmd 0 0) State.reset = .next (after (.decodeCmd 0 0)) ∧
        (after (.decodeCmd 0 0)).resp.bind (·.cmdValid) = some false) :=
  ⟨by decide, ⟨exec_after _, by decide, by decide⟩, exec_after _, by decide⟩
/-- A step of each form of move. -/
theorem witness_StepChangesOnlyWhatItsMoveMay :
    step State.reset = .next State.reset ∧ step { faulted with moves := [.read .kind] } = .next faulted ∧
      step (offered Config.default 0x2F000000000000) = .next faulted ∧
      step { faulted with moves := [.request 0, .reset] } = .next { faulted with moves := [.reset] } ∧
      step { faulted with moves := [.reset] } = .next State.reset := ⟨rfl, rfl, rfl, rfl, rfl⟩
/-- The invariant holds of a state with no response and of one in `Faulted`. -/
theorem faulted_inv : faulted.Inv where
  legal := by decide
  sound := by
    intro r h
    obtain rfl : blankResponse .protocolMisuse = r := by simpa [faulted] using h
    refine ⟨by simp [Response.shaped, blankResponse], by decide, ?_, ?_, ?_⟩
    · intro n h; cases h
    · intro w h; cases h
    · intro t rh h; cases h
  faulted := by decide
theorem witness_EveryStepKeepsTheInvariant :
    ({ faulted with moves := [.reset] } : State).Inv ∧ step { faulted with moves := [.reset] } = .next State.reset :=
  ⟨⟨faulted_inv.legal, faulted_inv.sound, faulted_inv.faulted⟩, rfl⟩
/-- A state of each of the three cases. -/
theorem witness_StepStopsOnlyForTheHostsTwoMistakes :
    (faulted.Inv ∧ step faulted = .next faulted) ∧
      (({ faulted with moves := [.request 0] } : State).Inv ∧
        step { faulted with moves := [.request 0] } = .fault .stuckInFaulted) ∧
      (({ faulted with moves := [.read .crc] } : State).Inv ∧
        step { faulted with moves := [.read .crc] } = .fault (.readOfNoValue .crc)) :=
  ⟨⟨faulted_inv, rfl⟩, ⟨⟨faulted_inv.legal, faulted_inv.sound, faulted_inv.faulted⟩, rfl⟩,
    ⟨⟨faulted_inv.legal, faulted_inv.sound, faulted_inv.faulted⟩, rfl⟩⟩
/-- A configuration that breaks each constraint of R6. -/
theorem witness_IllegalConfigurationsAreRefused :
    legalConfig { Config.default with measCmd := 0x3780 } = false ∧
      legalConfig { Config.default with serialCmd := 0x3781 } = false ∧
      legalConfig { Config.default with crcPoly := 0x30 } = false := by decide
theorem witness_LegalListsGiveDistinctCodes :
    otherConfig.measCmd ∈ [0x2C06, 0x2C0D, 0x2C10, 0x2400, 0x240B, 0x2416] ∧
      otherConfig.serialCmd ∈ [0x3780, 0x3682] := by decide
/-- Three instances; the middle one steps. -/
theorem witness_InstancesShareNoState :
    stepInstance [faulted, offered Config.default 0x2F000000000000, State.reset] ⟨1, by decide⟩ =
      .next [faulted, faulted, State.reset] := rfl

end Sys2Proof.Tests
end

section
/-! PROOFS. The legal configurations (00_scope.md R6): `legalConfig` says its three constraints, and where it fails
neither a step nor an instruction has a meaning. -/

namespace Sys2Proof.Machine

theorem mem_allCommands (c : Command) : c ∈ allCommands := by
  cases c <;> simp [allCommands]

theorem allCommands_nodup : allCommands.Nodup := by decide

/-- The list of the six wire codes has no repetition exactly when the codes are pairwise distinct (R6). -/
theorem wireCodes_nodup_iff {cfg : Config} :
    (allCommands.map (wireCode cfg)).Nodup ↔ ∀ a b : Command, wireCode cfg a = wireCode cfg b → a = b := by
  rw [List.nodup_map_iff_inj_on allCommands_nodup]
  exact ⟨fun h a b => h a (mem_allCommands a) b (mem_allCommands b), fun h a _ b _ => h a b⟩

/-- `legalConfig` is the conjunction of R6's three constraints. -/
theorem legalConfig_iff {cfg : Config} :
    legalConfig cfg = true ↔
      (∀ a b : Command, wireCode cfg a = wireCode cfg b → a = b) ∧
        cfg.measCmd ∈ measCodes ∧ cfg.serialCmd ∈ serialCodes ∧ cfg.crcPoly.getLsbD 0 = true := by
  rw [← wireCodes_nodup_iff]
  simp only [legalConfig, Bool.and_eq_true, decide_eq_true_eq, List.contains_iff_mem, and_assoc]

/-- Under an illegal configuration every step is refused, whatever the host's next move (R6). -/
theorem step_illegal {s : State} (hl : legalConfig s.cfg = false) : step s = .refused .illegalConfiguration := by
  simp [step, hl]

/-- Under an illegal configuration every instruction is refused (R6). -/
theorem exec_illegal (i : Instr) {s : State} (hl : legalConfig s.cfg = false) :
    exec i s = .refused .illegalConfiguration := by
  rw [exec_eq_accept]
  exact accept_illegal hl _

/-- Settles O58: the three constraints are `legalConfig_iff`, and the refusals follow from the test of the
configuration that `step` and `accept` make before anything else. -/
theorem illegalConfigurationsAreRefused : Obligations.IllegalConfigurationsAreRefused :=
  ⟨fun _ => legalConfig_iff, fun _ hl => ⟨step_illegal hl, fun i => exec_illegal i hl⟩⟩

end Sys2Proof.Machine
end

section
/-! PROOFS. The response and the mode (10_state.md R16, R21, R28): a failed operation leaves its kind alone, a response
is replaced whole, and the mode is written by a ProtocolMisuse and by reset. -/

namespace Sys2Proof.Machine

/-- A response that is not `OK` has no field but `kind` (R21). -/
def Response.FailsBlank (r : Response) : Prop := r.kind ≠ .ok → r = blankResponse r.kind

theorem failsBlank_of_ok {r : Response} (h : r.kind = .ok) : r.FailsBlank := fun hk => absurd h hk

theorem failsBlank_blankResponse (k : Kind) : (blankResponse k).FailsBlank := fun _ => rfl

theorem failsBlank_encodeResponse (cfg : Config) (cmd : BitVec 4) : (encodeResponse cfg cmd).FailsBlank := by
  unfold encodeResponse
  cases commandOfSelector cmd with
  | some c => exact failsBlank_of_ok rfl
  | none => exact failsBlank_blankResponse _

theorem failsBlank_lookupResponse (cfg : Config) (w : Word) : (lookupResponse cfg w).FailsBlank :=
  failsBlank_of_ok (lookupResponse_kind cfg w)

theorem failsBlank_decoderResponse (groupsOk : Bool) {r : Response} (h : r.kind = .ok) :
    (decoderResponse groupsOk r).FailsBlank := by
  cases groupsOk with
  | true => exact failsBlank_of_ok h
  | false => exact failsBlank_blankResponse _

/-- No instruction leaves a payload beside an error (R21). -/
theorem failsBlank_responseOf (cfg : Config) (i : Instr) : (responseOf cfg i).FailsBlank := by
  cases i with
  | crc8 | verify => exact failsBlank_of_ok rfl
  | encode | encodeReadStatus | encodeSoftReset | encodeHeaterEnable | encodeHeaterDisable | encodeReadSerial
  | encodeMeasure | encodeReserved67 | encodeReserved8F => exact failsBlank_encodeResponse cfg _
  | decodeStatus | decodeMeas | decodeSerial => exact failsBlank_decoderResponse _ rfl
  | reservedOp7 | reservedOp8F => exact failsBlank_blankResponse _
  | decodeCmd | wireReadStatus | wireSoftReset | wireHeaterEnable | wireHeaterDisable | wireReadSerial
  | wireMeasure => exact failsBlank_lookupResponse cfg _

/-- An instruction that ends in a next state leaves the response of `responseOf`. -/
theorem responseOf_of_exec {i : Instr} {s t : State} {r : Response} (h : exec i s = .next t)
    (hr : t.resp = some r) : r = responseOf s.cfg i := by
  obtain ⟨-, rfl⟩ := exec_eq_next.1 h
  simpa using hr.symm

/-- What an instruction does never depends on the response it finds (R21). -/
theorem exec_withResp (i : Instr) (s : State) (old : Option Response) :
    exec i { s with resp := old } = exec i s := by
  rw [exec_eq_accept, exec_eq_accept]
  rfl

/-- A step that takes neither a request nor a reset keeps the response (R21). -/
theorem step_keeps_resp {s t : State} (h : step s = .next t) :
    t.resp = s.resp ∨ (∃ rest, s.moves = .reset :: rest) ∨ (∃ w rest, s.moves = .request w :: rest) := by
  obtain ⟨-, ⟨-, rfl⟩ | ⟨w, rest, hm, -⟩ | ⟨w, rest, hm, -⟩ | ⟨p, rest, -, rfl, -⟩ | ⟨rest, hm, -⟩⟩ := step_cases h
  · exact .inl rfl
  · exact .inr (.inr ⟨w, rest, hm⟩)
  · exact .inr (.inr ⟨w, rest, hm⟩)
  · exact .inl rfl
  · exact .inr (.inl ⟨rest, hm⟩)

/-- Settles O46: the first clause by the cases of a step, the others from `exec_eq_accept` and `responseOf`. -/
theorem responsesAreHeldAndReplacedWhole : Obligations.ResponsesAreHeldAndReplacedWhole := by
  refine ⟨fun s t => step_keeps_resp, exec_withResp, fun i s t r h hr hk => ?_⟩
  obtain rfl := responseOf_of_exec h hr
  exact failsBlank_responseOf s.cfg i hk

/-- An instruction that makes the block `Faulted` is a ProtocolMisuse (R16). -/
theorem resp_of_exec_faulted {i : Instr} {s t : State} (h : exec i s = .next t) (ht : t.mode = .faulted) :
    t.resp = some (blankResponse .protocolMisuse) := by
  obtain ⟨ha, rfl⟩ := exec_eq_next.1 h
  have hk : (responseOf s.cfg i).kind = .protocolMisuse := by
    by_contra hk
    simp [hk, ha.ready] at ht
  rw [leave_resp, failsBlank_responseOf s.cfg i (by simp [hk]), hk]

/-- The step into `Faulted` is a request that left ProtocolMisuse (R16). -/
theorem misuse_of_step_to_faulted {s t : State} (h : step s = .next t) (hs : s.mode = .ready)
    (ht : t.mode = .faulted) :
    ∃ w rest, s.moves = .request w :: rest ∧ t.resp = some (blankResponse .protocolMisuse) := by
  obtain ⟨-, ⟨-, rfl⟩ | ⟨w, rest, hm, he⟩ | ⟨w, rest, -, hf, -⟩ | ⟨p, rest, -, rfl, -⟩ | ⟨rest, -, rfl⟩⟩ :=
    step_cases h
  · simp [hs] at ht
  · exact ⟨w, rest, hm, resp_of_exec_faulted he ht⟩
  · simp [hs] at hf
  · simp [hs] at ht
  · simp at ht

/-- The step out of `Faulted` is a reset (R16). -/
theorem reset_of_step_to_ready {s t : State} (h : step s = .next t) (hs : s.mode = .faulted)
    (ht : t.mode = .ready) : ∃ rest, s.moves = .reset :: rest := by
  obtain ⟨-, ⟨-, rfl⟩ | ⟨w, rest, -, he⟩ | ⟨w, rest, -, -, -, rfl⟩ | ⟨p, rest, -, rfl, -⟩ | ⟨rest, hm, -⟩⟩ :=
    step_cases h
  · simp [hs] at ht
  · have hr : s.mode = .ready := (exec_eq_next.1 he).1.ready
    simp [hs] at hr
  · simp [hs] at ht
  · simp [hs] at ht
  · exact ⟨rest, hm⟩

/-- Settles O42: the two transitions by the cases of a step; in `Faulted` an instruction answers a fault, and a read
looks at the response alone. -/
theorem modeIsWrittenByMisuseAndResetAlone : Obligations.ModeIsWrittenByMisuseAndResetAlone := by
  refine ⟨fun s t => misuse_of_step_to_faulted, fun s t => reset_of_step_to_ready, fun i s hl hf t h => ?_,
    fun s m p => rfl⟩
  rw [exec_faulted i hl hf] at h
  cases h

/-- Without a response every port is ⊥, and reading it is a fault of the run (R28, R121). -/
theorem hostRead_of_resp_none {s : State} (h : s.resp = none) (p : Port) :
    hostRead p s = .fault (.readOfNoValue p) := by
  simp [hostRead, readPort, h]

/-- Settles O52: the fields of the reset state, and what the reset event writes. -/
theorem resetStateIsReadyWithNoResponse : Obligations.ResetStateIsReadyWithNoResponse :=
  ⟨rfl, rfl, hostRead_of_resp_none rfl, fun s => ⟨resetEvent_mode s, resetEvent_resp s, resetEvent_cfg s⟩⟩

end Sys2Proof.Machine
end

section
/-! PROOFS. Binary64 values (00_scope.md R11): `fl64 x` is one, and the 64 bits that `packBinary64` makes of one are read
back as it. -/

namespace Sys2Proof.Machine

/-! ## Integers and powers of 2 -/

/-- The two arguments that `fl64` and `binary64Value` hand to `mkRat` stand for an integer times 2^k. -/
theorem mkRat_zpow (z k : Int) :
    mkRat (z * (2 ^ k.toNat : Nat)) (2 ^ (-k).toNat) = (z : Rat) * (2 : Rat) ^ k := by
  rw [Rat.mkRat_eq_div]
  rcases Int.le_total 0 k with hk | hk
  · obtain ⟨j, rfl⟩ := Int.eq_ofNat_of_zero_le hk
    simp
  · obtain ⟨j, rfl⟩ := Int.exists_eq_neg_ofNat hk
    simp [div_eq_mul_inv]

/-- The two integers `significand` divides are in the ratio of n / d to the unit 2^k. -/
theorem significand_ratio (n d : Nat) (k : Int) :
    ((n * 2 ^ (-k).toNat : Nat) : Rat) / (d * 2 ^ k.toNat : Nat) = n / d / (2 : Rat) ^ k := by
  rcases Int.le_total 0 k with hk | hk
  · obtain ⟨j, rfl⟩ := Int.eq_ofNat_of_zero_le hk
    simp [div_div]
  · obtain ⟨j, rfl⟩ := Int.exists_eq_neg_ofNat hk
    simp [div_mul_eq_mul_div]

/-- Rounding leaves an exact quotient as it is. -/
theorem roundHalfEven_mul (m : Nat) {b : Nat} (hb : 0 < b) : roundHalfEven (m * b) b = m := by
  simp [roundHalfEven, hb]

/-- Rounding does not pass an integer bound. -/
theorem roundHalfEven_le {a b m : Nat} (hb : 0 < b) (h : a ≤ m * b) : roundHalfEven a b ≤ m := by
  have hn := (roundHalfEven_near a hb).1
  by_contra hm
  have : (m + 1) * b ≤ roundHalfEven a b * b := Nat.mul_le_mul_right b (by omega)
  rw [Nat.add_mul] at this
  omega

/-- The absolute value of a rational is the quotient of the naturals that rounding works on. -/
theorem natAbs_num_div_den (x : Rat) : (x.num.natAbs : Rat) / x.den = |x| := by
  rw [Rat.abs_def, Rat.divInt_eq_div]
  push_cast
  simp

/-! ## The unit in the last place and the significand of a rational -/

/-- The exponent of the unit in the last place that `fl64` rounds `x` to. -/
def ulpOf (x : Rat) : Int := ulpExponent x.num.natAbs x.den

/-- `|x|` in those units, rounded. -/
def sigOf (x : Rat) : Nat := significand x.num.natAbs x.den (ulpOf x)

/-- `fl64 x` is the sign of x with the significand in units of the last place. -/
theorem fl64_eq (x : Rat) : fl64 x = ((x.num.sign * sigOf x : Int) : Rat) * (2 : Rat) ^ ulpOf x := by
  rw [← mkRat_zpow]
  simp [fl64, sigOf, ulpOf, mul_assoc]

/-- The signed significand is as large as the significand. -/
theorem abs_sign_mul_sigOf (x : Rat) : |x.num.sign * (sigOf x : Int)| = sigOf x := by
  rcases eq_or_ne x 0 with rfl | hx
  · simp [sigOf, significand, roundHalfEven]
  · rw [abs_mul, Int.abs_sign_of_ne_zero (by simpa using hx), one_mul, Nat.abs_cast]

/-- The significand in units of the last place is the distance of `fl64 x` from 0. -/
theorem abs_fl64 (x : Rat) : |fl64 x| = sigOf x * (2 : Rat) ^ ulpOf x := by
  rw [fl64_eq, abs_mul, abs_of_pos (zpow_pos (two_pos : (0 : Rat) < 2) (ulpOf x)), ← Int.cast_abs,
    abs_sign_mul_sigOf, Int.cast_natCast]

section Rounding
variable {x : Rat} {m : Nat} {j : Int}

/-- A number of whole units in the last place is its own significand. -/
theorem sigOf_of_eq (h : |x| = m * (2 : Rat) ^ ulpOf x) : sigOf x = m := by
  have hd := x.den_pos
  have hr := significand_ratio x.num.natAbs x.den (ulpOf x)
  rw [natAbs_num_div_den, h, mul_div_cancel_right₀ _ (by positivity), div_eq_iff (by positivity)] at hr
  have hr' : x.num.natAbs * 2 ^ (-ulpOf x).toNat = m * (x.den * 2 ^ (ulpOf x).toNat) := by exact_mod_cast hr
  rw [sigOf, significand, hr', roundHalfEven_mul m (by positivity)]

/-- A number up to `m` units in the last place has a significand up to `m`. -/
theorem sigOf_le (h : |x| ≤ m * (2 : Rat) ^ ulpOf x) : sigOf x ≤ m := by
  have hd := x.den_pos
  refine roundHalfEven_le (by positivity) ?_
  rw [← div_le_iff₀ (by positivity), ← natAbs_num_div_den, ← significand_ratio, div_le_iff₀ (by positivity)] at h
  exact_mod_cast h

theorem natAbs_num_pos (hx : x ≠ 0) : 0 < x.num.natAbs := by simpa [Nat.pos_iff_ne_zero] using hx

theorem neg_1074_le_ulpOf (x : Rat) : -1074 ≤ ulpOf x := le_max_right _ _

/-- A number is below 2^53 of its units in the last place. -/
theorem abs_lt_ulp (x : Rat) : |x| < 2 ^ 53 * (2 : Rat) ^ ulpOf x := by
  rcases eq_or_ne x 0 with rfl | hx
  · rw [abs_zero]; positivity
  rw [← natAbs_num_div_den]
  calc (x.num.natAbs : Rat) / x.den < (2 : Rat) ^ (floorLog2 x.num.natAbs x.den + 1) :=
        (floorLog2_spec (natAbs_num_pos hx) x.den_pos).2
    _ ≤ (2 : Rat) ^ (53 + ulpOf x) := zpow_le_zpow_right₀ one_le_two (by unfold ulpOf ulpExponent; omega)
    _ = 2 ^ 53 * (2 : Rat) ^ ulpOf x := by rw [zpow_add₀ two_ne_zero]; norm_cast

/-- Above the subnormals a number is at least 2^52 of its units in the last place. -/
theorem ulp_le_abs (hx : x ≠ 0) (hk : -1074 < ulpOf x) : 2 ^ 52 * (2 : Rat) ^ ulpOf x ≤ |x| := by
  rw [← natAbs_num_div_den]
  calc 2 ^ 52 * (2 : Rat) ^ ulpOf x = (2 : Rat) ^ (52 + ulpOf x) := by rw [zpow_add₀ two_ne_zero]; norm_cast
    _ = (2 : Rat) ^ floorLog2 x.num.natAbs x.den := by congr 1; unfold ulpOf ulpExponent at hk ⊢; omega
    _ ≤ (x.num.natAbs : Rat) / x.den := (floorLog2_spec (natAbs_num_pos hx) x.den_pos).1

/-- The unit in the last place of a number up to 2^j. -/
theorem ulpOf_le (hx : x ≠ 0) (h : |x| ≤ (2 : Rat) ^ j) : ulpOf x ≤ max (j - 52) (-1074) := by
  rw [← natAbs_num_div_den] at h
  have : floorLog2 x.num.natAbs x.den ≤ j :=
    (zpow_le_zpow_iff_right₀ one_lt_two).1 ((floorLog2_spec (natAbs_num_pos hx) x.den_pos).1.trans h)
  unfold ulpOf ulpExponent
  omega

/-- A significand has at most 53 bits, but for 2^53 itself. -/
theorem sigOf_le_two_pow (x : Rat) : sigOf x ≤ 2 ^ 53 := sigOf_le (by exact_mod_cast (abs_lt_ulp x).le)

/-- Rounding does not pass a power of 2. -/
theorem abs_fl64_le (hj : -1074 ≤ j) (h : |x| ≤ (2 : Rat) ^ j) : |fl64 x| ≤ (2 : Rat) ^ j := by
  rcases eq_or_ne x 0 with rfl | hx
  · rw [fl64_eq]; simp; positivity
  have hu : ulpOf x ≤ j := (ulpOf_le hx h).trans (by omega)
  obtain ⟨i, rfl⟩ : ∃ i : Nat, j = i + ulpOf x := ⟨(j - ulpOf x).toNat, by omega⟩
  rw [zpow_add₀ two_ne_zero, zpow_natCast] at h ⊢
  have hs : sigOf x ≤ 2 ^ i := sigOf_le (by exact_mod_cast h)
  rw [abs_fl64]
  gcongr
  exact_mod_cast hs

end Rounding

/-! ## Binary64 values -/

/-- `y` is a binary64 value, subnormals included, with no bound on the exponent from above (R11). -/
def IsBinary64 (y : Rat) : Prop := ∃ m k : Int, |m| ≤ 2 ^ 53 ∧ -1074 ≤ k ∧ y = (m : Rat) * (2 : Rat) ^ k

theorem isBinary64_intCast {m : Int} (h : |m| ≤ 2 ^ 53) : IsBinary64 m := ⟨m, 0, h, by norm_num, by simp⟩

/-- `fl64 x` is a binary64 value (R11). -/
theorem isBinary64_fl64 (x : Rat) : IsBinary64 (fl64 x) := by
  refine ⟨_, _, ?_, neg_1074_le_ulpOf x, fl64_eq x⟩
  rw [abs_sign_mul_sigOf]
  exact_mod_cast sigOf_le_two_pow x

/-- A binary64 value is a whole number of its units in the last place. -/
theorem exists_abs_eq_mul_ulp {y : Rat} (h : IsBinary64 y) (hy : y ≠ 0) :
    ∃ u : Nat, |y| = u * (2 : Rat) ^ ulpOf y := by
  obtain ⟨m, j, hm, hj, he⟩ := h
  have habs : |y| = (m.natAbs : Rat) * (2 : Rat) ^ j := by
    rw [he, abs_mul, abs_of_pos (zpow_pos (two_pos : (0 : Rat) < 2) j), Nat.cast_natAbs, Int.cast_abs]
  rcases le_or_gt (ulpOf y) j with hk | hk
  · obtain ⟨i, rfl⟩ : ∃ i : Nat, j = i + ulpOf y := ⟨(j - ulpOf y).toNat, by omega⟩
    refine ⟨m.natAbs * 2 ^ i, ?_⟩
    rw [habs, zpow_add₀ two_ne_zero, zpow_natCast]
    push_cast
    ring
  · -- Only m = 2^53 leaves the unit above 2^j: then |y| is 2^52 of the unit 2^(j + 1).
    refine ⟨2 ^ 52, le_antisymm ?_ (by exact_mod_cast ulp_le_abs hy (by omega))⟩
    calc |y| ≤ 2 ^ 53 * (2 : Rat) ^ j := by
          rw [habs]; gcongr; exact_mod_cast (Int.natCast_natAbs m).trans_le hm
      _ = 2 ^ 52 * (2 : Rat) ^ (j + 1) := by rw [zpow_add_one₀ two_ne_zero]; ring
      _ ≤ 2 ^ 52 * (2 : Rat) ^ ulpOf y := by
          have := zpow_le_zpow_right₀ (one_le_two : (1 : Rat) ≤ 2) (show j + 1 ≤ ulpOf y by omega)
          gcongr
      _ = (2 ^ 52 : Nat) * (2 : Rat) ^ ulpOf y := by norm_cast

/-- A binary64 value is exactly its significand in units of the last place. -/
theorem abs_eq_sigOf_mul {y : Rat} (h : IsBinary64 y) (hy : y ≠ 0) : |y| = sigOf y * (2 : Rat) ^ ulpOf y := by
  obtain ⟨u, hu⟩ := exists_abs_eq_mul_ulp h hy
  rw [sigOf_of_eq hu, hu]

/-! ## Packing and reading back -/

/-- The 64 bits with the given sign, biased exponent and fraction (IEEE 754). -/
def binary64Fields (neg : Bool) (e f : Nat) : BitVec 64 :=
  BitVec.ofNat 64 (neg.toNat * 2 ^ 63 + e * 2 ^ 52 + f)

section Fields
variable (neg : Bool) {e f : Nat}

theorem binary64Fields_toNat (he : e < 2048) (hf : f < 2 ^ 52) :
    (binary64Fields neg e f).toNat = neg.toNat * 2 ^ 63 + e * 2 ^ 52 + f := by
  rw [binary64Fields, BitVec.toNat_ofNat, Nat.mod_eq_of_lt]
  have := neg.toNat_le
  omega

theorem binary64Fields_expo (he : e < 2048) (hf : f < 2 ^ 52) :
    ((binary64Fields neg e f).extractLsb' 52 11).toNat = e := by
  rw [BitVec.extractLsb'_toNat, binary64Fields_toNat neg he hf, Nat.shiftRight_eq_div_pow]
  omega

theorem binary64Fields_frac (he : e < 2048) (hf : f < 2 ^ 52) :
    ((binary64Fields neg e f).extractLsb' 0 52).toNat = f := by
  rw [BitVec.extractLsb'_toNat, binary64Fields_toNat neg he hf, Nat.shiftRight_eq_div_pow]
  omega

theorem binary64Fields_msb (he : e < 2048) (hf : f < 2 ^ 52) : (binary64Fields neg e f).msb = neg := by
  rw [BitVec.msb_eq_decide, binary64Fields_toNat neg he hf]
  cases neg with
  | true => exact decide_eq_true (by rw [Bool.toNat_true]; omega)
  | false => exact decide_eq_false (by rw [Bool.toNat_false]; omega)

/-- The value that sign, exponent and fraction stand for, below the exponent of infinities and NaNs (IEEE 754). -/
theorem binary64Value_fields (he : e < 2047) (hf : f < 2 ^ 52) :
    binary64Value (binary64Fields neg e f) =
      some ((if neg then -1 else 1) *
        ((if e = 0 then f else f + 2 ^ 52 : Nat) * (2 : Rat) ^ (((max e 1 : Nat) : Int) - 1075))) := by
  unfold binary64Value
  simp only [binary64Fields_expo neg (Nat.lt_succ_of_lt he) hf, binary64Fields_frac neg (Nat.lt_succ_of_lt he) hf,
    binary64Fields_msb neg (Nat.lt_succ_of_lt he) hf]
  rw [if_neg he.ne, Nat.cast_mul, mkRat_zpow, Int.cast_natCast, ite_mul, neg_one_mul, one_mul]

end Fields

/-- A pattern is packed with a zero exponent for a significand below 2^52, and else with its leading bit left out. -/
theorem packBinary64_eq (y : Rat) :
    packBinary64 y =
      if sigOf y < 2 ^ 52 then binary64Fields (decide (y < 0)) 0 (sigOf y)
      else binary64Fields (decide (y < 0)) (ulpOf y + 1075).toNat (sigOf y - 2 ^ 52) := by
  by_cases h : y < 0 <;> simp [packBinary64, binary64Fields, sigOf, ulpOf, h]

/-- The 64 bits of a binary64 value are read back as that value. -/
theorem binary64Value_packBinary64 {y : Rat} (h : IsBinary64 y) (hb : |y| ≤ (2 : Rat) ^ (1023 : Int)) :
    binary64Value (packBinary64 y) = some y := by
  rcases eq_or_ne y 0 with rfl | hy
  · decide +kernel
  have hpos : (0 : Rat) < (2 : Rat) ^ ulpOf y := by positivity
  have habs := abs_eq_sigOf_mul h hy
  have hmax : ulpOf y ≤ 971 := ulpOf_le hy hb
  have hmin := neg_1074_le_ulpOf y
  have hlt : sigOf y < 2 ^ 53 := by
    have := abs_lt_ulp y
    rw [habs, mul_lt_mul_iff_left₀ hpos] at this
    exact_mod_cast this
  have hsign : (if decide (y < 0) then -1 else 1) * (sigOf y * (2 : Rat) ^ ulpOf y) = y := by
    rw [← habs]
    split <;> rename_i hs
    · rw [abs_of_neg (by simpa using hs)]; ring
    · rw [abs_of_nonneg (by simpa using hs)]; ring
  rw [packBinary64_eq]
  split
  case isTrue hs =>
    have hk : ulpOf y = -1074 := by
      by_contra hk
      have := ulp_le_abs hy (lt_of_le_of_ne hmin (Ne.symm hk))
      rw [habs, mul_le_mul_iff_left₀ hpos] at this
      exact absurd hs (not_lt.2 (by exact_mod_cast this))
    have hmax1 : ((max 0 1 : Nat) : Int) - 1075 = ulpOf y := by rw [hk]; rfl
    rw [binary64Value_fields _ (by norm_num) hs, if_pos (rfl : 0 = 0), hmax1, hsign]
  case isFalse hs =>
    have he : (ulpOf y + 1075).toNat ≠ 0 := by omega
    have hexpo : ((max (ulpOf y + 1075).toNat 1 : Nat) : Int) - 1075 = ulpOf y := by omega
    rw [binary64Value_fields _ (by omega) (by omega), if_neg he, Nat.sub_add_cancel (by omega), hexpo, hsign]

/-- The 64 bits of a rounded value are read back as the rounded value. -/
theorem binary64Value_packBinary64_fl64 {x : Rat} (h : |x| ≤ (2 : Rat) ^ (1023 : Int)) :
    binary64Value (packBinary64 (fl64 x)) = some (fl64 x) :=
  binary64Value_packBinary64 (isBinary64_fl64 x) (abs_fl64_le (by norm_num) h)

end Sys2Proof.Machine
end

section
/-! PROOFS. The readings in the three conversion modes (10_state.md R30; 42_response_decode.md R85 to R88): every value a
mode rounds is far inside the finite range, so its 64 bits stand for it. -/

namespace Sys2Proof.Machine

/-- A number up to 512 is far inside the finite range. -/
theorem packable_of_abs_le {x : Rat} (h : |x| ≤ 512) : |x| ≤ (2 : Rat) ^ (1023 : Int) := by
  refine h.trans ?_
  calc (512 : Rat) = (2 : Rat) ^ (9 : Int) := by norm_num
    _ ≤ (2 : Rat) ^ (1023 : Int) := zpow_le_zpow_right₀ one_le_two (by norm_num)

/-! ## The clamp -/

/-- The clamp answers one of its ends or its operand. -/
theorem clampPercent_cases (x : Rat) : clampPercent x = 0 ∨ clampPercent x = 100 ∨ clampPercent x = x := by
  unfold clampPercent
  rcases min_choice (max x 0) 100 with h | h
  · rw [h]
    exact (max_choice x 0).elim (fun hx => .inr (.inr hx)) .inl
  · exact .inr (.inl h)

/-- The clamp of a binary64 value is one: both ends are (R87). -/
theorem isBinary64_clampPercent {x : Rat} (h : IsBinary64 x) : IsBinary64 (clampPercent x) := by
  rcases clampPercent_cases x with hc | hc | hc <;> rw [hc]
  · exact_mod_cast isBinary64_intCast (m := 0) (by norm_num)
  · exact_mod_cast isBinary64_intCast (m := 100) (by norm_num)
  · exact h

theorem abs_clampPercent_le (x : Rat) : |clampPercent x| ≤ 100 :=
  abs_le.2 ⟨(by norm_num : (-100 : Rat) ≤ 0).trans (le_min (le_max_right _ _) (by norm_num)), min_le_right _ _⟩

/-! ## The ranges of the conversions -/

section Ranges
variable (r : Word)

/-- The fraction of full scale, which every conversion scales. -/
theorem abs_fraction_le : |(r.toNat : Rat) / 65535| ≤ 1 := by
  have hr : (r.toNat : Rat) ≤ 65535 := by exact_mod_cast Nat.le_of_lt_succ r.isLt
  rw [abs_of_nonneg (by positivity), div_le_one (by norm_num)]
  exact hr

theorem abs_temperatureExact_le : |temperatureExact r.toNat| ≤ 512 := by
  have h := abs_le.1 (abs_fraction_le r)
  rw [temperatureExact, mul_div_assoc, abs_le]
  constructor <;> linarith

/-- The rounded fraction of full scale is no larger than 1. -/
theorem abs_fdiv_le : |fdiv (r.toNat : Rat) 65535| ≤ 1 := by
  have h := abs_fl64_le (j := 0) (by norm_num) ((abs_fraction_le r).trans_eq (zpow_zero 2).symm)
  rwa [zpow_zero] at h

theorem abs_fmul_175_le : |fmul 175 (fdiv (r.toNat : Rat) 65535)| ≤ 256 := by
  have h := abs_le.1 (abs_fdiv_le r)
  have hx : |175 * fdiv (r.toNat : Rat) 65535| ≤ (2 : Rat) ^ (8 : Int) := by
    rw [abs_le]; constructor <;> norm_num <;> linarith
  exact (abs_fl64_le (by norm_num) hx).trans (by norm_num)

/-- The last sum of the `Seq64` temperature, before it is rounded (R87). -/
theorem abs_temperatureSum_le : |-45 + fmul 175 (fdiv (r.toNat : Rat) 65535)| ≤ 512 := by
  have h := abs_le.1 (abs_fmul_175_le r)
  rw [abs_le]
  constructor <;> linarith

end Ranges

/-! ## What the readings stand for -/

section Values
variable (r : Word)

/-- In `Seq64` the temperature stands for the value of its written expression (R87). -/
theorem temperature_seq64_value : (temperature .seq64 r).value = some (temperatureSeq64 r.toNat) :=
  binary64Value_packBinary64_fl64 (packable_of_abs_le (abs_temperatureSum_le r))

/-- In `Seq64` the humidity stands for the clamped value of its written expression (R87). -/
theorem humidity_seq64_value : (humidity .seq64 r).value = some (humiditySeq64 r.toNat) :=
  binary64Value_packBinary64 (isBinary64_clampPercent (isBinary64_fl64 _))
    (packable_of_abs_le ((abs_clampPercent_le _).trans (by norm_num)))

/-- In `CR64` the temperature stands for the binary64 value nearest the exact one (R88). -/
theorem temperature_cr64_value : (temperature .cr64 r).value = some (fl64 (temperatureExact r.toNat)) :=
  binary64Value_packBinary64_fl64 (packable_of_abs_le (abs_temperatureExact_le r))

/-- In `CR64` the humidity stands for the binary64 value nearest the exact one (R88). -/
theorem humidity_cr64_value : (humidity .cr64 r).value = some (fl64 (humidityExact r.toNat)) :=
  binary64Value_packBinary64_fl64 (packable_of_abs_le ((abs_clampPercent_le _).trans (by norm_num)))

/-- In a binary64 mode both readings are 64 bits (R30). -/
theorem readings_binary64 {m : ConvMode} (hm : m ≠ .exact) :
    ∃ bt bh : BitVec 64, temperature m r = .binary64 bt ∧ humidity m r = .binary64 bh := by
  cases m with
  | exact => exact absurd rfl hm
  | seq64 | cr64 => exact ⟨_, _, rfl, rfl⟩

end Values

/-- Settles O27: the types by the mode, the values by the four lemmas above. -/
theorem readingsHaveTheTypeAndValueOfTheirMode : Obligations.ReadingsHaveTheTypeAndValueOfTheirMode := fun r =>
  ⟨rfl, rfl, fun _ => readings_binary64 r, temperature_seq64_value r, humidity_seq64_value r,
    temperature_cr64_value r, humidity_cr64_value r⟩

end Sys2Proof.Machine
end

section
/-! PROOFS. The Command rows of ENCODE (20_memory.md R32; 41_command_codec.md R73, R74): a row is ENCODE of its
Command's selector, and leaves that Command's wire bytes and response length. -/

namespace Sys2Proof.Machine

/-- The `cmd` value of a Command selects that Command (R46). -/
@[simp] theorem commandOfSelector_selectorOf (c : Command) : commandOfSelector (selectorOf c) = some c := by
  cases c <;> rfl

/-- ENCODE of a Command's selector answers that Command's wire sequence and length (R73). -/
@[simp] theorem encodeResponse_selectorOf (cfg : Config) (c : Command) :
    encodeResponse cfg (selectorOf c) = commandResponse cfg c := by
  simp [encodeResponse]

/-- An accepted instruction that answers `OK` changes the response alone (R17). -/
theorem exec_of_ok {i : Instr} {s : State} (h : s.Accepts) (hk : (responseOf s.cfg i).kind = .ok) :
    exec i s = .next { s with resp := some (responseOf s.cfg i) } := by
  rw [exec_eq_accept, accept_of_accepts h, ← respond_eq_leave hk]
  rfl

/-- An accepted instruction that is ENCODE of a Command's selector leaves the two bytes of that Command's code, most
significant first, and its response length, and changes nothing else (R32, R73, R74). -/
theorem exec_commandRow {i : Instr} {s : State} (h : s.Accepts) (c : Command) (code : Word) {b0 b1 : Byte}
    (hi : responseOf s.cfg i = encodeResponse s.cfg (selectorOf c)) (hc : wireCode s.cfg c = code)
    (h0 : wireMsb code = b0) (h1 : wireLsb code = b1) :
    exec i s = .next { s with
      resp := some { blankResponse .ok with
        wire0 := some b0
        wire1 := some b1
        rlen  := some (responseLength c) } } := by
  rw [encodeResponse_selectorOf] at hi
  rw [exec_of_ok h (by rw [hi]; rfl), hi, commandResponse, hc, h0, h1]

/-- Settles O10: each row is ENCODE of its Command's selector (`exec_commandRow`), and the codes and lengths are
those of the Command tables. -/
theorem commandRowsProduceTheirBytesAndLength : Obligations.CommandRowsProduceTheirBytesAndLength := fun s h =>
  ⟨exec_commandRow h .readStatus readStatusCode rfl rfl (by decide) (by decide),
    exec_commandRow h .softReset softResetCode rfl rfl (by decide) (by decide),
    exec_commandRow h .heaterEnable heaterEnableCode rfl rfl (by decide) (by decide),
    exec_commandRow h .heaterDisable heaterDisableCode rfl rfl (by decide) (by decide),
    exec_commandRow h .readSerial s.cfg.serialCmd rfl rfl rfl rfl,
    exec_commandRow h .measure s.cfg.measCmd rfl rfl rfl rfl⟩

end Sys2Proof.Machine
end

section
/-! PROOFS. The reserved bits of a StatusWord (30_encoding.md R57): `DECODE_STATUS` copies them into `status`, and no
other port of its response depends on them. -/

namespace Sys2Proof.Machine

/-- A word that holds reserved bits alone has every named bit clear. -/
theorem getLsbD_eq_false_of_reserved {reserved : Word} (h : reserved &&& statusNamedMask = 0) {k : Nat}
    (hk : statusNamedMask.getLsbD k = true) : reserved.getLsbD k = false := by
  simpa [hk] using congrArg (BitVec.getLsbD · k) h

/-- Flipping reserved bits changes the response of `DECODE_STATUS` in `status` alone (R57). -/
theorem statusResponse_xor_reserved (w : Word) {reserved : Word} (h : reserved &&& statusNamedMask = 0) :
    statusResponse (w ^^^ reserved) = { statusResponse w with status := some (w ^^^ reserved) } := by
  have keep (k : Nat) (hk : statusNamedMask.getLsbD k = true) : (w ^^^ reserved).getLsbD k = w.getLsbD k := by
    rw [BitVec.getLsbD_xor, getLsbD_eq_false_of_reserved h hk, Bool.xor_false]
  simp (disch := decide) only [statusResponse, statusAlertPending, statusHeaterActive, statusRhAlert, statusTAlert,
    statusResetDetected, statusCommandStatus, statusChecksumStatus, keep]

/-- A status group with its right check byte is accepted, whatever its word holds (R57, R82). -/
theorem exec_decodeStatus_of_crc8 {s : State} (h : s.Accepts) (m l : Byte) :
    exec (.decodeStatus m l (crc8 s.cfg m l)) s = .next (respond (statusResponse (wordOf m l)) s) := by
  have hr : responseOf s.cfg (.decodeStatus m l (crc8 s.cfg m l)) = statusResponse (wordOf m l) := by
    simp [responseOf, groupOk]
  rw [exec_of_ok h (by rw [hr]; rfl), hr]
  rfl

/-- Settles O18: both groups are accepted, and their responses differ in `status` alone
(`statusResponse_xor_reserved`). -/
theorem reservedStatusBitsAreCopiedUnchecked : Obligations.ReservedStatusBitsAreCopiedUnchecked := by
  intro s h m l reserved hres
  refine ⟨_, respond (statusResponse ((m ++ l) ^^^ reserved)) s, statusResponse (wordOf m l),
    exec_decodeStatus_of_crc8 h m l, rfl, rfl, rfl, fun m' l' hw => ⟨?_, ?_⟩⟩
  · rw [exec_decodeStatus_of_crc8 h m' l', wordOf, hw]
  · exact congrArg some (statusResponse_xor_reserved _ hres)

end Sys2Proof.Machine
end

section
/-! PROOFS. The reserved operation selectors (30_encoding.md R49; 60_exceptions.md R99): a request with one decodes to a
reserved row, and both rows raise ProtocolMisuse. -/

namespace Sys2Proof

/-- A request with a reserved selector is on a reserved row, whatever its other fields hold (R49). -/
theorem decode_of_reservedOp {w : Request} (h : 7 ≤ (reqOp w).toNat) :
    decode w = .reservedOp7 ∨ ∃ low, decode w = .reservedOp8F low := by
  unfold decode
  split
  case h_8 => exact .inl rfl
  case h_9 => exact .inr ⟨_, rfl⟩
  all_goals omega

end Sys2Proof

namespace Sys2Proof.Machine

/-- An accepted instruction that answers ProtocolMisuse leaves that response and makes the block `Faulted` (R99). -/
theorem exec_of_misuse {i : Instr} {s : State} (h : s.Accepts)
    (hr : responseOf s.cfg i = blankResponse .protocolMisuse) :
    exec i s = .next { s with resp := some (blankResponse .protocolMisuse), mode := .faulted } := by
  rw [exec_eq_accept, accept_of_accepts h, hr]
  rfl

/-- Settles O39: a reserved selector decodes to a reserved row (`decode_of_reservedOp`), whose response is
ProtocolMisuse. -/
theorem reservedSelectorIsProtocolMisuse : Obligations.ReservedSelectorIsProtocolMisuse := by
  refine fun s h => ⟨exec_of_misuse h rfl, fun low => exec_of_misuse h rfl, fun w hw => ?_⟩
  obtain hd | ⟨low, hd⟩ := decode_of_reservedOp hw <;> exact exec_of_misuse h (by rw [hd]; rfl)

end Sys2Proof.Machine
end

section
/-! PROOFS. The fields a request's operation does not read (30_encoding.md R47, R48, R61): they change no step, and the
assembler writes them as zero. -/

namespace Sys2Proof.Machine

/-! ## They change no step -/

/-- A request whose selector is ENCODE's is an ENCODE of its `cmd` value (R62). -/
theorem decode_of_encodeOp {w : Request} (h : reqOp w = 0x2) :
    decode w = decodeEncode (reqCmd w) (reqBytes w) := by
  simp [decode, h]

/-- A `cmd` value from `0x8` on is its low three bits below a 1 (R75). -/
theorem one_append_low {cmd : BitVec 4} (h : 8 ≤ cmd.toNat) : (1 : BitVec 1) ++ cmd.extractLsb' 0 3 = cmd := by
  decide +revert

/-- An ENCODE request with such a `cmd` value and no ignored bit set is on the reserved row of them (R46, R75). -/
theorem decodeEncode_zero_reserved8F {cmd : BitVec 4} (h : 8 ≤ cmd.toNat) :
    decodeEncode cmd 0 = .encodeReserved8F (cmd.extractLsb' 0 3) := by
  decide +revert

/-- Whichever row an ENCODE request is on, its response is that of its `cmd` value: the ignored bits choose between
rows of one meaning (R48, R73). -/
theorem responseOf_decodeEncode (cfg : Config) (cmd : BitVec 4) (ignored : BitVec 48) :
    responseOf cfg (decodeEncode cmd ignored) = encodeResponse cfg cmd := by
  by_cases hi : ignored = 0
  · subst hi
    by_cases h8 : 8 ≤ cmd.toNat
    · rw [decodeEncode_zero_reserved8F h8, responseOf, one_append_low h8]
    · obtain ⟨n, hn⟩ := cmd
      replace h8 : n < 8 := Nat.lt_of_not_le h8
      interval_cases n <;> rfl
  · rw [decodeEncode, if_neg hi, responseOf]

/-- Outside ENCODE the instruction is determined by the selector and the operand bytes the operation reads (R47). -/
theorem decode_congr {v w : Request} (hop : reqOp v = reqOp w) (h2 : reqOp v ≠ 0x2)
    (hb : ∀ k, k < bytesRead (reqOp v) → reqByte v k = reqByte w k) : decode v = decode w := by
  unfold decode
  rw [← hop]
  split
  case h_3 h => exact absurd (BitVec.eq_of_toNat_eq h) h2
  case h_8 | h_9 => rfl
  all_goals
    next h =>
      simp only [bytesRead, h] at hb
      simp [hb]

/-- Requests that agree on the fields their operation reads are answered alike (R48). -/
theorem responseOf_decode_congr (cfg : Config) {v w : Request} (hop : reqOp v = reqOp w)
    (hc : reqOp v = 0x2 → reqCmd v = reqCmd w)
    (hb : ∀ k, k < bytesRead (reqOp v) → reqByte v k = reqByte w k) :
    responseOf cfg (decode v) = responseOf cfg (decode w) := by
  by_cases h2 : reqOp v = 0x2
  · rw [decode_of_encodeOp h2, decode_of_encodeOp (hop ▸ h2), responseOf_decodeEncode, responseOf_decodeEncode,
      hc h2]
  · rw [decode_congr hop h2 hb]

/-- The step of a request depends on it through the response it is answered with alone. -/
theorem step_request_congr {v w : Request} (h : ∀ cfg, responseOf cfg (decode v) = responseOf cfg (decode w))
    (s : State) (rest : List Move) :
    step { s with moves := .request v :: rest } = step { s with moves := .request w :: rest } := by
  simp only [step, exec_eq_accept, h]

/-! ## The assembler writes them as zero -/

/-- Every field the operation of a request does not read is zero (R48). -/
def IgnoredFieldsZero (w : Request) : Prop :=
  (reqOp w ≠ 0x2 → reqCmd w = 0) ∧ ∀ k, bytesRead (reqOp w) ≤ k → k < 6 → reqByte w k = 0

section AsmRequest
variable {op cmd : BitVec 4} {v0 v1 v2 v3 v4 v5 : Nat} {w : Request}

/-- An assembled request is packed from its operands as bytes (R60). -/
theorem eq_packRequest_of_asmRequest (h : asmRequest op cmd v0 v1 v2 v3 v4 v5 = some w) :
    w = packRequest op cmd (BitVec.ofNat 8 v0) (BitVec.ofNat 8 v1) (BitVec.ofNat 8 v2) (BitVec.ofNat 8 v3)
      (BitVec.ofNat 8 v4) (BitVec.ofNat 8 v5) := by
  simp only [asmRequest, asmField, Option.bind_eq_bind, Option.bind_eq_some_iff, Option.ite_none_right_eq_some,
    Option.some.injEq, Option.pure_def] at h
  obtain ⟨_, ⟨-, rfl⟩, _, ⟨-, rfl⟩, _, ⟨-, rfl⟩, _, ⟨-, rfl⟩, _, ⟨-, rfl⟩, _, ⟨-, rfl⟩, rfl⟩ := h
  rfl

/-- An operand byte of an assembled request is that operand (R60). -/
theorem reqByte_of_asmRequest (h : asmRequest op cmd v0 v1 v2 v3 v4 v5 = some w) {k : Nat} (hk : k < 6) :
    reqByte w k = BitVec.ofNat 8 ([v0, v1, v2, v3, v4, v5][k]) := by
  rw [eq_packRequest_of_asmRequest h]
  interval_cases k <;> simp

/-- A form whose operands are zero from the first one its operation does not read on has its ignored fields zero. -/
theorem ignoredFieldsZero_of_asmRequest (h : asmRequest op cmd v0 v1 v2 v3 v4 v5 = some w)
    (hc : op ≠ 0x2 → cmd = 0)
    (hz : [v0, v1, v2, v3, v4, v5].drop (bytesRead op) = List.replicate (6 - bytesRead op) 0) :
    IgnoredFieldsZero w := by
  have hw := eq_packRequest_of_asmRequest h
  have hop : reqOp w = op := by rw [hw, reqOp_packRequest]
  refine ⟨fun h2 => ?_, fun k hk hk6 => ?_⟩
  · rw [hw, reqCmd_packRequest]
    exact hc (hop ▸ h2)
  · rw [hop] at hk
    have hv : [v0, v1, v2, v3, v4, v5][k] = 0 := by
      have := congrArg (·[k - bytesRead op]?) hz
      simpa [hk, hk6, Nat.sub_lt_sub_right hk hk6] using this
    rw [reqByte_of_asmRequest h hk6, hv]
    rfl

end AsmRequest

theorem ignoredFieldsZero_encodeRequest (cmd : BitVec 4) : IgnoredFieldsZero (encodeRequest cmd) :=
  ignoredFieldsZero_of_asmRequest (rfl : asmRequest 2 cmd 0 0 0 0 0 0 = some (encodeRequest cmd))
    (fun h => absurd rfl h) rfl

/-- Every form but the literal request writes the fields its operation does not read as zero (R48, R60). -/
theorem ignoredFieldsZero_of_assemble {line : AsmLine} {w : Request} (hl : ∀ v, line ≠ .rawRequest v)
    (h : assemble line = some w) : IgnoredFieldsZero w := by
  cases line with
  | crc8 | verify | decodeCmd | decodeStatus | decodeMeas | decodeSerial =>
    exact ignoredFieldsZero_of_asmRequest h (fun _ => rfl) rfl
  | encodeCommand c =>
    cases h
    exact ignoredFieldsZero_encodeRequest _
  | encodeNumber n =>
    obtain ⟨cmd, -, rfl⟩ := Option.map_eq_some_iff.1 h
    exact ignoredFieldsZero_encodeRequest cmd
  | rawRequest v => exact absurd rfl (hl v)
  | encodeHeater e =>
    match e, h with
    | 0, rfl | 1, rfl => exact ignoredFieldsZero_encodeRequest _

/-- Settles O33: the step of a request depends on its response alone, which `responseOf_decode_congr` determines from
the fields read; the assembler's forms are `ignoredFieldsZero_of_assemble`. -/
theorem ignoredFieldsChangeNothing : Obligations.IgnoredFieldsChangeNothing :=
  ⟨fun s rest _ _ hop hc hb => step_request_congr (fun cfg => responseOf_decode_congr cfg hop hc hb) s rest,
    by decide, by decide, fun _ _ => ignoredFieldsZero_of_assemble⟩

/-- Settles O34, along the cases of the assembler: 0, 1, and every other number. -/
theorem heaterPseudoInstructionExpands : Obligations.HeaterPseudoInstructionExpands
  | 0 => by decide
  | 1 => by decide
  | e + 2 => by simp [assemble]

end Sys2Proof.Machine
end

section
/-! PROOFS. The ports each operation writes (30_encoding.md R51): those of its row on `OK`, `kind` alone on an error. -/

namespace Sys2Proof.Machine

/-- An error's response holds its kind alone (R21). -/
theorem presentPorts_blankResponse (k : Kind) : (blankResponse k).presentPorts = [.kind] := rfl

/-- ENCODE writes the wire bytes and the response length when it answers `OK` (R51). -/
theorem presentPorts_encodeResponse {cfg : Config} {cmd : BitVec 4} (h : (encodeResponse cfg cmd).kind = .ok) :
    (encodeResponse cfg cmd).presentPorts = [.kind, .wire0, .wire1, .rlen] := by
  unfold encodeResponse at h ⊢
  cases hc : commandOfSelector cmd with
  | some c => rfl
  | none => simp [hc] at h

/-- ENCODE with a reserved `cmd` value does not answer `OK` (R75). -/
theorem encodeResponse_ne_ok (cfg : Config) {cmd : BitVec 4} (h : 5 < cmd.toNat) :
    (encodeResponse cfg cmd).kind ≠ .ok := by
  simp [encodeResponse_kind, h]

/-- DECODE_CMD writes `cmd_valid`, and `cmd_out` only when `cmd_valid = 1` (R51). -/
theorem presentPorts_lookupResponse (cfg : Config) (w : Word) :
    (lookupResponse cfg w).presentPorts =
      if (lookupResponse cfg w).cmdValid == some true then [.kind, .cmdValid, .cmdOut] else [.kind, .cmdValid] := by
  unfold lookupResponse
  cases commandOfWire cfg w <;> rfl

/-- A decoder that answers `OK` found its groups right, and writes the ports of its response (R92). -/
theorem presentPorts_decoderResponse {groupsOk : Bool} {r : Response} (h : (decoderResponse groupsOk r).kind = .ok) :
    (decoderResponse groupsOk r).presentPorts = r.presentPorts := by
  cases groupsOk with
  | true => rfl
  | false => cases h

/-- On `OK` an instruction writes exactly the ports of its row (R51). -/
theorem presentPorts_responseOf {cfg : Config} {i : Instr} (h : (responseOf cfg i).kind = .ok) :
    (responseOf cfg i).presentPorts = okPorts ((responseOf cfg i).cmdValid == some true) i := by
  cases i with
  | crc8 | verify => rfl
  | encode | encodeReadStatus | encodeSoftReset | encodeHeaterEnable | encodeHeaterDisable | encodeReadSerial
  | encodeMeasure => exact presentPorts_encodeResponse h
  | decodeStatus | decodeMeas | decodeSerial => exact presentPorts_decoderResponse h
  | encodeReserved67 low => exact absurd h (encodeResponse_ne_ok cfg (by clear h; decide +revert))
  | encodeReserved8F low => exact absurd h (encodeResponse_ne_ok cfg (by clear h; decide +revert))
  | reservedOp7 | reservedOp8F => cases h
  | decodeCmd | wireReadStatus | wireSoftReset | wireHeaterEnable | wireHeaterDisable | wireReadSerial
  | wireMeasure => exact presentPorts_lookupResponse cfg _

/-- Settles O47: on `OK` the ports are the row's (`presentPorts_responseOf`), and a failed operation leaves its kind
alone (`failsBlank_responseOf`). -/
theorem responseFieldsAreTheOperationsRow : Obligations.ResponseFieldsAreTheOperationsRow := by
  intro i s t r h hr
  obtain rfl := responseOf_of_exec h hr
  by_cases hk : (responseOf s.cfg i).kind = .ok
  · rw [if_pos hk, presentPorts_responseOf hk]
  · rw [if_neg hk, failsBlank_responseOf s.cfg i hk, presentPorts_blankResponse]

end Sys2Proof.Machine
end

section
/-! PROOFS. The operations of the Checksum Unit (40_checksum.md R65 to R67): `CRC8` leaves the checksum of its two
bytes, and `VERIFY` whether the check byte is that checksum. -/

namespace Sys2Proof.Machine

/-- A request whose selector is CRC8's is a CRC8 of its first two bytes (R62). -/
theorem decode_of_crc8Op {w : Request} (h : reqOp w = 0x0) : decode w = .crc8 (reqByte w 0) (reqByte w 1) := by
  simp [decode, h]

/-- A request whose selector is VERIFY's is a VERIFY of its first three bytes (R62). -/
theorem decode_of_verifyOp {w : Request} (h : reqOp w = 0x1) :
    decode w = .verify (reqByte w 0) (reqByte w 1) (reqByte w 2) := by
  simp [decode, h]

/-- An accepted CRC8 leaves the checksum of its two bytes (R66). -/
theorem exec_crc8 {s : State} (h : s.Accepts) (d0 d1 : Byte) :
    exec (.crc8 d0 d1) s = .next { s with
      resp := some { blankResponse .ok with crc := some (crc8 s.cfg d0 d1) } } :=
  exec_of_ok h rfl

/-- An accepted VERIFY leaves whether the check byte is the checksum of the two data bytes (R67). -/
theorem exec_verify {s : State} (h : s.Accepts) (d0 d1 chk : Byte) :
    exec (.verify d0 d1 chk) s = .next { s with
      resp := some { blankResponse .ok with matched := some (decide (crc8 s.cfg d0 d1 = chk)) } } :=
  exec_of_ok h rfl

/-- The spec's example: the checksum of BE EF at the default configuration (R66). -/
theorem crc8_default_BEEF : crc8 Config.default 0xBE 0xEF = 0x92 := by decide +kernel

/-- The checksum of the all-zero word at the default configuration (R66). -/
theorem crc8_default_zero : crc8 Config.default 0x00 0x00 = 0x81 := by decide +kernel

/-- Settles O1: the checksum function is R65's composition by definition; the step is `exec_crc8`, the decoder's row
`decode_of_crc8Op`, and the example evaluates one checksum. -/
theorem crc8ComputesTheChecksum : Obligations.Crc8ComputesTheChecksum := by
  refine ⟨fun _ _ _ _ _ _ => rfl, fun s h => exec_crc8 h, fun w => decode_of_crc8Op,
    fun s hl hf d0 d1 => exec_faulted _ hl hf, fun s h hc => ?_⟩
  have hd : decode 0x00BEEF00000000 = .crc8 0xBE 0xEF := decode_of_crc8Op (by decide)
  rw [hd, exec_crc8 h, hc, crc8_default_BEEF]

/-- Settles O3: the step is `exec_verify`, the decoder's row `decode_of_verifyOp`, and each example compares its
check byte with one evaluated checksum. -/
theorem verifyComparesTheCheckByte : Obligations.VerifyComparesTheCheckByte := by
  refine ⟨fun s h => exec_verify h, fun w => decode_of_verifyOp, fun s h hc => ⟨?_, ?_, ?_⟩⟩
  · rw [exec_verify h, hc, crc8_default_zero]
    rfl
  · rw [exec_verify h, hc, crc8_default_BEEF]
    rfl
  · rw [exec_verify h, hc, crc8_default_BEEF]
    rfl

end Sys2Proof.Machine
end

section
/-! PROOFS. ENCODE with a `cmd` value outside the Command set (41_command_codec.md R75; 60_exceptions.md R99): it
answers ProtocolMisuse, whichever of its rows the request is on. -/

namespace Sys2Proof.Machine

/-- ENCODE of a `cmd` value from `0x6` on answers ProtocolMisuse and no wire byte (R75). -/
theorem encodeResponse_reserved (cfg : Config) {cmd : BitVec 4} (h : 6 ≤ cmd.toNat) :
    encodeResponse cfg cmd = blankResponse .protocolMisuse := by
  have hk : (encodeResponse cfg cmd).kind = .protocolMisuse := by
    rw [encodeResponse_kind, if_pos (Nat.lt_of_succ_le h)]
  rw [failsBlank_encodeResponse cfg cmd (by simp [hk]), hk]

/-- The row of `0x6` and `0x7` holds reserved `cmd` values alone (R75). -/
theorem six_le_reserved67 (low : BitVec 1) : 6 ≤ ((3 : BitVec 3) ++ low).toNat := by decide +revert

/-- The row of `0x8` to `0xF` holds reserved `cmd` values alone (R75). -/
theorem six_le_reserved8F (low : BitVec 3) : 6 ≤ ((1 : BitVec 1) ++ low).toNat := by decide +revert

/-- An ENCODE request with `cmd` `0x6` or `0x7` and no ignored bit set is on the reserved row of them (R46, R75). -/
theorem decodeEncode_zero_reserved67 {cmd : BitVec 4} (h6 : 6 ≤ cmd.toNat) (h8 : cmd.toNat < 8) :
    decodeEncode cmd 0 = .encodeReserved67 (cmd.extractLsb' 0 1) := by
  decide +revert

/-- A reserved `cmd` value is on ENCODE's own row or, with no ignored bit set, on one of the reserved rows (R75). -/
theorem decodeEncode_reserved {cmd : BitVec 4} (h : 6 ≤ cmd.toNat) (ignored : BitVec 48) :
    decodeEncode cmd ignored = .encode cmd ignored ∨
      (∃ low, decodeEncode cmd ignored = .encodeReserved67 low) ∨
      ∃ low, decodeEncode cmd ignored = .encodeReserved8F low := by
  by_cases hi : ignored = 0
  · subst hi
    rcases Nat.lt_or_ge cmd.toNat 8 with h8 | h8
    · exact .inr (.inl ⟨_, decodeEncode_zero_reserved67 h h8⟩)
    · exact .inr (.inr ⟨_, decodeEncode_zero_reserved8F h8⟩)
  · exact .inl (if_neg hi)

/-- Settles O11: on each of the three rows the response is `encodeResponse_reserved`, and a request with such a `cmd`
value is on one of them by `decodeEncode_reserved`. -/
theorem undefinedVariantIsProtocolMisuse : Obligations.UndefinedVariantIsProtocolMisuse := by
  refine ⟨fun s h => ⟨fun cmd ignored hc => ?_, fun low => ?_, fun low => ?_⟩, fun w hop hc => ?_⟩
  · exact exec_of_misuse h (encodeResponse_reserved s.cfg hc)
  · exact exec_of_misuse h (encodeResponse_reserved s.cfg (six_le_reserved67 low))
  · exact exec_of_misuse h (encodeResponse_reserved s.cfg (six_le_reserved8F low))
  · rw [decode_of_encodeOp hop]
    exact decodeEncode_reserved hc (reqBytes w)

end Sys2Proof.Machine
end

section
/-! PROOFS. DECODE_CMD (41_command_codec.md R76): in a legal configuration the lookup inverts `wireCode`, and every
DECODE_CMD request is the lookup of its word, whichever row it is on. -/

namespace Sys2Proof.Machine

/-! ## The lookup -/

/-- In a legal configuration the lookup of a Command's code finds that Command (R6, R76). -/
theorem commandOfWire_wireCode {cfg : Config} (hl : legalConfig cfg = true) (c : Command) :
    commandOfWire cfg (wireCode cfg c) = some c := by
  cases h : commandOfWire cfg (wireCode cfg c) with
  | none => exact absurd rfl (commandOfWire_eq_none.1 h c)
  | some d => rw [wireCode_injective hl (wireCode_of_commandOfWire h)]

/-- In a legal configuration every Command's code is a word of the opcode table (R6, R53). -/
theorem wireCode_mem_tableWireCodes {cfg : Config} (hl : legalConfig cfg = true) (c : Command) :
    wireCode cfg c ∈ tableWireCodes := by
  obtain ⟨-, hmeas, hserial, -⟩ := legalConfig_iff.1 hl
  cases c with
  | readStatus | softReset | heaterEnable | heaterDisable => simp [wireCode, tableWireCodes]
  | readSerial => exact List.mem_append_left _ (List.mem_append_right _ hserial)
  | measure => exact List.mem_append_right _ hmeas

/-- The words of two equal bytes 00 or FF are on no wire-command row (R53, R76). -/
theorem uniformWord_not_mem_tableWireCodes {b : Byte} (hb : b = 0x00 ∨ b = 0xFF) :
    b ++ b ∉ tableWireCodes := by
  obtain rfl | rfl := hb <;> decide

/-! ## The instruction -/

section Exec
variable {s : State} (h : s.Accepts) {w0 w1 : Byte}
include h

/-- An accepted DECODE_CMD leaves the lookup of its word, whatever that word is (R76). -/
theorem exec_decodeCmd (w0 w1 : Byte) :
    exec (.decodeCmd w0 w1) s = .next { s with resp := some (lookupResponse s.cfg (w0 ++ w1)) } :=
  exec_of_ok h (lookupResponse_kind s.cfg _)

/-- DECODE_CMD of a Command's code answers that Command's selector (R76). -/
theorem exec_decodeCmd_of_wireCode {c : Command} (hc : wireCode s.cfg c = w0 ++ w1) :
    exec (.decodeCmd w0 w1) s = .next { s with
      resp := some { blankResponse .ok with cmdValid := some true, cmdOut := some (selectorOf c) } } := by
  rw [exec_decodeCmd h, lookupResponse, ← hc, commandOfWire_wireCode h.legal]

/-- DECODE_CMD of a word that is no Command's code answers `cmd_valid = 0`, and `OK` (R58, R76). -/
theorem exec_decodeCmd_of_no_wireCode (hn : ∀ c, wireCode s.cfg c ≠ w0 ++ w1) :
    exec (.decodeCmd w0 w1) s = .next { s with
      resp := some { blankResponse .ok with cmdValid := some false } } := by
  rw [exec_decodeCmd h, lookupResponse, commandOfWire_eq_none.2 hn]

/-- DECODE_CMD of 0000 or FFFF answers `cmd_valid = 0` in every legal configuration (R76). -/
theorem exec_decodeCmd_uniform {b : Byte} (hb : b = 0x00 ∨ b = 0xFF) :
    exec (.decodeCmd b b) s = .next { s with
      resp := some { blankResponse .ok with cmdValid := some false } } :=
  exec_decodeCmd_of_no_wireCode h fun c hc =>
    uniformWord_not_mem_tableWireCodes hb (hc ▸ wireCode_mem_tableWireCodes h.legal c)

end Exec

/-! ## The request -/

/-- A request whose selector is DECODE_CMD's is a DECODE_CMD of its first two bytes (R62). -/
theorem decode_of_lookupOp {w : Request} (h : reqOp w = 0x3) :
    decode w = decodeLookup (reqByte w 0) (reqByte w 1) := by
  simp [decode, h]

/-- Whichever row a DECODE_CMD request is on, its response is the lookup of its word (R76). -/
theorem responseOf_decodeLookup (cfg : Config) (w0 w1 : Byte) :
    responseOf cfg (decodeLookup w0 w1) = lookupResponse cfg (wordOf w0 w1) := by
  simp only [decodeLookup, wordOf]
  split_ifs with hStatus hReset hEnable hDisable
  · rw [hStatus, responseOf]
  · rw [hReset, responseOf]
  · rw [hEnable, responseOf]
  · rw [hDisable, responseOf]
  all_goals rfl

/-- A request with DECODE_CMD's selector does what DECODE_CMD of its first two bytes does, in every state (R76). -/
theorem exec_decode_of_lookupOp {w : Request} (h : reqOp w = 0x3) (s : State) :
    exec (decode w) s = exec (.decodeCmd (reqByte w 0) (reqByte w 1)) s := by
  rw [exec_eq_accept, exec_eq_accept, decode_of_lookupOp h, responseOf_decodeLookup, responseOf]

/-- Settles O12: the two answers are `exec_decodeCmd_of_wireCode` and `exec_decodeCmd_of_no_wireCode`, the codes differ
by `wireCode_injective`, and the rows are `exec_decode_of_lookupOp`. -/
theorem decodeCmdLooksUpTheWord : Obligations.DecodeCmdLooksUpTheWord := by
  refine ⟨fun s h w0 w1 => ⟨fun c => exec_decodeCmd_of_wireCode h, exec_decodeCmd_of_no_wireCode h⟩,
    fun cfg hl a b => wireCode_injective hl, fun s w hop => exec_decode_of_lookupOp hop s,
    fun s h b => exec_decodeCmd_uniform h, fun s h hc => ⟨?_, ?_⟩⟩
  · refine exec_decodeCmd_of_no_wireCode h ?_
    rw [hc]
    exact commandOfWire_eq_none.1 (by decide)
  · exact exec_decodeCmd_of_wireCode (c := .softReset) h rfl

end Sys2Proof.Machine
end

section
/-! PROOFS. The host's tables (30_encoding.md R55; 41_command_codec.md R78): which Command a driver operation sends, and
which decoder takes its response. -/

namespace Sys2Proof.Machine

/-- A request whose selector is DECODE_STATUS's is a DECODE_STATUS of its first three bytes (R62). -/
theorem decode_of_statusOp {w : Request} (h : reqOp w = 0x4) :
    decode w = .decodeStatus (reqByte w 0) (reqByte w 1) (reqByte w 2) := by
  simp [decode, h]

/-- A request whose selector is DECODE_MEAS's is a DECODE_MEAS of its six bytes (R62). -/
theorem decode_of_measOp {w : Request} (h : reqOp w = 0x5) :
    decode w = .decodeMeas (reqByte w 0) (reqByte w 1) (reqByte w 2) (reqByte w 3) (reqByte w 4) (reqByte w 5) := by
  simp [decode, h]

/-- A request whose selector is DECODE_SERIAL's is a DECODE_SERIAL of its six bytes (R62). -/
theorem decode_of_serialOp {w : Request} (h : reqOp w = 0x6) :
    decode w = .decodeSerial (reqByte w 0) (reqByte w 1) (reqByte w 2) (reqByte w 3) (reqByte w 4) (reqByte w 5) := by
  simp [decode, h]

/-- A Command's response is whole groups of three bytes (R55). -/
theorem responseLength_eq_groups (c : Command) : (responseLength c).toNat = 3 * responseGroups c := by
  cases c <;> rfl

/-- The Commands without a decoder are those of no response (R55). -/
theorem decoderOp_eq_none_iff (c : Command) : decoderOp c = none ↔ responseLength c = 0 := by
  cases c <;> decide

/-- The decoder of a Command reads as many bytes as its response has (R47, R55). -/
theorem bytesRead_of_decoderOp {c : Command} {op : BitVec 4} (h : decoderOp c = some op) :
    bytesRead op = (responseLength c).toNat := by
  cases c with
  | readStatus | readSerial | measure => cases h; rfl
  | softReset | heaterEnable | heaterDisable => cases h

/-- Every Command is sent by a driver operation (R78). -/
theorem driverCommand_surjective : Function.Surjective driverCommand
  | .readStatus => ⟨.readStatus, rfl⟩
  | .softReset => ⟨.softReset, rfl⟩
  | .heaterEnable => ⟨.controlHeater true, rfl⟩
  | .heaterDisable => ⟨.controlHeater false, rfl⟩
  | .readSerial => ⟨.readSerialNumber, rfl⟩
  | .measure => ⟨.readValues, rfl⟩

/-- Settles O16: the two tables hold by definition, a decoder's `op` decodes to that decoder (`decode_of_statusOp`,
`decode_of_measOp`, `decode_of_serialOp`), and it reads the whole response (`bytesRead_of_decoderOp`). -/
theorem eachCommandsDecoderReadsItsResponse : Obligations.EachCommandsDecoderReadsItsResponse := by
  refine ⟨⟨rfl, rfl, rfl, rfl, rfl, rfl⟩, ⟨rfl, rfl, rfl, rfl, rfl, rfl⟩,
    fun w => ⟨fun h => ?_, fun h => ?_, fun h => ?_⟩,
    responseLength_eq_groups, decoderOp_eq_none_iff, fun _ _ => bytesRead_of_decoderOp, driverCommand_surjective⟩
  · exact decode_of_statusOp (Option.some.inj h).symm
  · exact decode_of_measOp (Option.some.inj h).symm
  · exact decode_of_serialOp (Option.some.inj h).symm

end Sys2Proof.Machine
end


section
/-! PROOFS. The response decoders (42_response_decode.md R82 to R92): a decoder whose groups all pass leaves the response
of its words, and any other leaves `kind` alone. -/

namespace Sys2Proof.Machine

/-! ## What a decoder leaves -/

/-- A group passes exactly when its check byte is the checksum of its two data bytes (R81). -/
@[simp] theorem groupOk_iff {cfg : Config} {m l c : Byte} : groupOk cfg m l c = true ↔ crc8 cfg m l = c :=
  beq_iff_eq

/-- An accepted decoder leaves its words' response where its groups pass, ChecksumMismatch otherwise, and changes
nothing else (R92, R97). -/
theorem exec_decoder {i : Instr} {s : State} {groupsOk : Bool} {r : Response} {P : Prop} [Decidable P]
    (h : s.Accepts) (hi : responseOf s.cfg i = decoderResponse groupsOk r) (hk : r.kind = .ok)
    (hP : groupsOk = true ↔ P) :
    exec i s = .next { s with resp := some (if P then r else blankResponse .checksumMismatch) } := by
  rw [exec_eq_accept, accept_of_accepts h, hi, ← decodeIfOk_eq_leave _ hk]
  by_cases hp : P
  · rw [if_pos hp, hP.2 hp]
    rfl
  · rw [if_neg hp, Bool.eq_false_iff.2 (mt hP.1 hp)]
    rfl

section Exec
variable {s : State} (h : s.Accepts)
include h

/-- An accepted DECODE_STATUS leaves its word with the named bits, where the group passes (R82, R83). -/
theorem exec_decodeStatus (m l c : Byte) :
    exec (.decodeStatus m l c) s = .next { s with
      resp := some (if crc8 s.cfg m l = c then statusResponse (m ++ l) else blankResponse .checksumMismatch) } :=
  exec_decoder h rfl rfl groupOk_iff

/-- An accepted DECODE_MEAS leaves its two words with their readings, where both groups pass (R84). -/
theorem exec_decodeMeas (tm tl tc hm hl hc : Byte) :
    exec (.decodeMeas tm tl tc hm hl hc) s = .next { s with
      resp := some (if crc8 s.cfg tm tl = tc ∧ crc8 s.cfg hm hl = hc then measResponse s.cfg (tm ++ tl) (hm ++ hl)
        else blankResponse .checksumMismatch) } :=
  exec_decoder h rfl rfl (by simp)

/-- An accepted DECODE_SERIAL leaves the number of its two words, where both groups pass (R91). -/
theorem exec_decodeSerial (am al ac bm bl bc : Byte) :
    exec (.decodeSerial am al ac bm bl bc) s = .next { s with
      resp := some (if crc8 s.cfg am al = ac ∧ crc8 s.cfg bm bl = bc then serialResponse (am ++ al) (bm ++ bl)
        else blankResponse .checksumMismatch) } :=
  exec_decoder h rfl rfl (by simp)

end Exec

/-! ## All or nothing -/

/-- The instruction is on the row of a response decoder (R45). -/
def IsDecoder (i : Instr) : Prop :=
  (∃ m l c, i = .decodeStatus m l c) ∨ (∃ tm tl tc hm hl hc, i = .decodeMeas tm tl tc hm hl hc) ∨
    (∃ am al ac bm bl bc, i = .decodeSerial am al ac bm bl bc)

/-- A decoder answers a response with exactly its row's ports, unless one of its groups fails (R51, R92). -/
theorem responseOf_of_isDecoder (cfg : Config) {i : Instr} (hd : IsDecoder i) :
    ∃ r : Response, responseOf cfg i = decoderResponse (!failingGroup cfg i) r ∧ r.kind = .ok ∧
      r.presentPorts = okPorts true i := by
  obtain ⟨m, l, c, rfl⟩ | ⟨tm, tl, tc, hm, hl, hc, rfl⟩ | ⟨am, al, ac, bm, bl, bc, rfl⟩ := hd
  · exact ⟨statusResponse (wordOf m l), by rw [failingGroup, Bool.not_not, responseOf], rfl, rfl⟩
  · exact ⟨measResponse cfg (wordOf tm tl) (wordOf hm hl), by rw [failingGroup, Bool.not_not, responseOf], rfl, rfl⟩
  · exact ⟨serialResponse (wordOf am al) (wordOf bm bl), by rw [failingGroup, Bool.not_not, responseOf], rfl, rfl⟩

/-- Settles O21: what the row answers is `responseOf_of_isDecoder`, and `exec_decoder` leaves it or `kind` alone. -/
theorem decoderResponsesAreAllOrNothing : Obligations.DecoderResponsesAreAllOrNothing := by
  intro s h i hd
  obtain ⟨r, hi, hk, hp⟩ := responseOf_of_isDecoder s.cfg hd
  have hpass : (!failingGroup s.cfg i) = true ↔ failingGroup s.cfg i = false := by simp
  refine ⟨_, _, exec_decoder h hi hk hpass, rfl, rfl, fun hf => ?_, fun hf => ?_⟩
  · rw [if_neg (ne_false_of_eq_true hf)]
    exact ⟨rfl, presentPorts_blankResponse _⟩
  · rw [if_pos hf]
    exact ⟨hk, hp⟩

/-! ## The status word -/

/-- The checksum of the status word of a pending alert and a detected reset, at the default configuration (R82). -/
theorem crc8_default_8010 : crc8 Config.default 0x80 0x10 = 0xE1 := by decide +kernel

/-- Settles O17: the branches of `exec_decodeStatus`, the decoder's row `decode_of_statusOp`, and each example
compares its check byte with one evaluated checksum. -/
theorem decodeStatusDecodesItsGroup : Obligations.DecodeStatusDecodesItsGroup := by
  refine ⟨fun s h m l c => ⟨fun hok w hw => ?_, fun hne => ?_⟩, fun w => decode_of_statusOp,
    fun s h hc => ⟨?_, ?_, ?_⟩⟩
  · rw [exec_decodeStatus h, if_pos hok, hw]
    rfl
  · rw [exec_decodeStatus h, if_neg hne]
  · rw [exec_decodeStatus h, hc, crc8_default_zero]
    rfl
  · rw [exec_decodeStatus h, hc, crc8_default_zero]
    rfl
  · rw [exec_decodeStatus h, hc, crc8_default_8010]
    rfl

/-! ## The measurement -/

/-- The readings at the ends of the range and at 0x6666, two fifths of it, are whole numbers in every mode (R84,
R89). -/
theorem readings_at_examples (m : ConvMode) :
    (temperature m 0x0000).value = some (-45) ∧ (temperature m 0xFFFF).value = some 130 ∧
      (humidity m 0xFFFF).value = some 100 ∧
      (temperature m 0x6666).value = some 25 ∧ (humidity m 0x6666).value = some 40 := by
  cases m with
  | exact | seq64 | cr64 => decide +kernel

/-- Settles O19: the branches of `exec_decodeMeas`, the decoder's row `decode_of_measOp`, and the example words
(`readings_at_examples`) with one evaluated checksum. -/
theorem decodeMeasDecodesTwoGroups : Obligations.DecodeMeasDecodesTwoGroups := by
  refine ⟨fun s h tm tl tc hm hl hc => ⟨fun hok => ?_, fun hne => ?_⟩, fun w => decode_of_measOp,
    readings_at_examples, by decide +kernel⟩
  · rw [exec_decodeMeas h, if_pos hok]
    rfl
  · rw [exec_decodeMeas h, if_neg hne]

/-! ## The serial number -/

/-- Appending bit vectors shifts the first past the width of the second. -/
theorem toNat_append_eq_add {m n : Nat} (a : BitVec m) (b : BitVec n) :
    (a ++ b).toNat = a.toNat * 2 ^ n + b.toNat := by
  rw [BitVec.toNat_append, ← Nat.shiftLeft_add_eq_or_of_lt b.isLt, Nat.shiftLeft_eq]

/-- The serial number has its four bytes in order, most significant first (R35, R91). -/
theorem serialOf_bytes (am al bm bl : Byte) :
    serialOf (am ++ al) (bm ++ bl) =
      BitVec.ofNat 32 (((am.toNat * 256 + al.toNat) * 256 + bm.toNat) * 256 + bl.toNat) := by
  apply BitVec.eq_of_toNat_eq
  simp only [serialOf, toNat_append_eq_add, BitVec.toNat_ofNat]
  omega

/-- Settles O20: the branches of `exec_decodeSerial` with the number of `serialOf_bytes`, the decoder's row
`decode_of_serialOp`, and the examples' evaluated checksums. -/
theorem decodeSerialDecodesTwoGroups : Obligations.DecodeSerialDecodesTwoGroups := by
  refine ⟨fun s h am al ac bm bl bc => ⟨fun hok => ?_, fun hne => ?_⟩, fun w => decode_of_serialOp,
    fun s h hc => ⟨?_, ?_⟩⟩
  · rw [exec_decodeSerial h, if_pos hok, serialResponse, serialOf_bytes]
  · rw [exec_decodeSerial h, if_neg hne]
  · rw [exec_decodeSerial h, hc, if_pos ⟨crc8_default_zero, crc8_default_zero⟩]
    rfl
  · rw [exec_decodeSerial h, hc, if_pos (by decide +kernel)]
    rfl

end Sys2Proof.Machine
end

section
/-! PROOFS. The exact conversions as DECODE_MEAS leaves them (42_response_decode.md R85, R86): the temperature needs no
clamp to lie in its range. -/

namespace Sys2Proof.Machine

/-- A raw word is a fraction of full scale from 0 to 1. -/
theorem fraction_mem_unitInterval (r : Word) : 0 ≤ (r.toNat : Rat) / 65535 ∧ (r.toNat : Rat) / 65535 ≤ 1 :=
  ⟨by positivity, (abs_le.1 (abs_fraction_le r)).2⟩

/-- The exact temperature of a raw word lies in [-45, 130] (R85). -/
theorem temperatureExact_range (r : Word) : -45 ≤ temperatureExact r.toNat ∧ temperatureExact r.toNat ≤ 130 := by
  obtain ⟨h0, h1⟩ := fraction_mem_unitInterval r
  rw [temperatureExact, mul_div_assoc]
  constructor <;> linarith

/-- Settles O24: both groups pass, the readings of `exec_decodeMeas` in `Exact` mode are R85's and R86's formulas by
definition, and the range is `temperatureExact_range`. -/
theorem exactConversionsAreTheDocumentsFormulas : Obligations.ExactConversionsAreTheDocumentsFormulas := by
  intro s h hmode tm tl rm rl
  have he := exec_decodeMeas h tm tl (crc8 s.cfg tm tl) rm rl (crc8 s.cfg rm rl)
  rw [if_pos ⟨rfl, rfl⟩] at he
  obtain ⟨hlow, hhigh⟩ := temperatureExact_range (tm ++ tl)
  exact ⟨_, measResponse s.cfg (tm ++ tl) (rm ++ rl), _, _, he, rfl, by rw [measResponse, hmode]; rfl,
    by rw [measResponse, hmode]; rfl, rfl, hlow, hhigh, rfl⟩

end Sys2Proof.Machine
end

section
/-! PROOFS. The two error kinds (60_exceptions.md R95, R97, R102, R104): the kind of a response is decided by two
questions about its instruction, whether it names something outside the defined set and whether a decoder's group
fails. -/

namespace Sys2Proof.Machine

/-! ## The kind of a response -/

/-- A decoder answers `OK` unless one of its groups fails (R92). -/
theorem decoderResponse_kind (groupsOk : Bool) {r : Response} (h : r.kind = .ok) :
    (decoderResponse groupsOk r).kind = if (!groupsOk) = true then .checksumMismatch else .ok := by
  cases groupsOk with
  | true => exact h
  | false => rfl

/-- The kind of an instruction's response: ProtocolMisuse outside the defined set, else ChecksumMismatch with a failing
group, else `OK` (R95, R104). -/
theorem responseOf_kind (cfg : Config) (i : Instr) :
    (responseOf cfg i).kind =
      if outsideDefinedSet i = true then .protocolMisuse
      else if failingGroup cfg i = true then .checksumMismatch else .ok := by
  cases i with
  | crc8 | verify | encodeReadStatus | encodeSoftReset | encodeHeaterEnable | encodeHeaterDisable | encodeReadSerial
  | encodeMeasure | reservedOp7 | reservedOp8F => rfl
  | encode cmd ignored => simp [responseOf, encodeResponse_kind, outsideDefinedSet, failingGroup]
  | encodeReserved67 low => rw [responseOf, encodeResponse_reserved cfg (six_le_reserved67 low)]; rfl
  | encodeReserved8F low => rw [responseOf, encodeResponse_reserved cfg (six_le_reserved8F low)]; rfl
  | decodeStatus | decodeMeas | decodeSerial => exact decoderResponse_kind _ rfl
  | decodeCmd | wireReadStatus | wireSoftReset | wireHeaterEnable | wireHeaterDisable | wireReadSerial
  | wireMeasure => exact lookupResponse_kind cfg _

/-- No instruction meets both conditions: a decoder is in the defined set (R95). -/
theorem outsideDefinedSet_of_failingGroup {cfg : Config} {i : Instr} (h : failingGroup cfg i = true) :
    outsideDefinedSet i = false := by
  cases i with
  | decodeStatus | decodeMeas | decodeSerial => rfl
  | _ => cases h

/-- A response is a ChecksumMismatch exactly where a decoder's group fails (R95). -/
theorem responseOf_kind_eq_checksumMismatch {cfg : Config} {i : Instr} :
    (responseOf cfg i).kind = .checksumMismatch ↔ failingGroup cfg i = true := by
  rw [responseOf_kind]
  cases hf : failingGroup cfg i with
  | true => simp [outsideDefinedSet_of_failingGroup hf]
  | false => split <;> simp

/-- A response is a ProtocolMisuse exactly where the instruction is outside the defined set (R95, R98). -/
theorem responseOf_kind_eq_protocolMisuse {cfg : Config} {i : Instr} :
    (responseOf cfg i).kind = .protocolMisuse ↔ outsideDefinedSet i = true := by
  rw [responseOf_kind]
  cases outsideDefinedSet i with
  | true => simp
  | false => cases failingGroup cfg i <;> simp

/-- A response that is an error is blank but for that error's kind (R21). -/
theorem responseOf_eq_blankResponse {cfg : Config} {i : Instr} {k : Kind} (h : (responseOf cfg i).kind = k)
    (hk : k ≠ .ok) : responseOf cfg i = blankResponse k := by
  subst h
  exact failsBlank_responseOf cfg i hk

/-- Settles O22: the response is ChecksumMismatch's (`responseOf_kind_eq_checksumMismatch`), which keeps the mode. -/
theorem checksumMismatchLeavesItsKindAlone : Obligations.ChecksumMismatchLeavesItsKindAlone := by
  intro s h i hf
  have hr : responseOf s.cfg i = blankResponse .checksumMismatch :=
    responseOf_eq_blankResponse (responseOf_kind_eq_checksumMismatch.2 hf) (by decide)
  rw [exec_eq_accept, accept_of_accepts h, hr]
  rfl

/-- Settles O44: the causes are the two `responseOf_kind_eq_…` lemmas, an error records its kind alone
(`responseOf_eq_blankResponse`), and `leave` writes the mode for ProtocolMisuse only. -/
theorem errorKindsHaveTheirCausesAndCodes : Obligations.ErrorKindsHaveTheirCausesAndCodes := by
  refine ⟨rfl, rfl, fun i s t r h hr => ?_⟩
  obtain rfl := responseOf_of_exec h hr
  obtain ⟨-, rfl⟩ := exec_eq_next.1 h
  refine ⟨responseOf_kind_eq_checksumMismatch, responseOf_kind_eq_protocolMisuse, fun hk => ⟨?_, ?_⟩,
    fun hk => ⟨?_, ?_⟩⟩
  · exact responseOf_eq_blankResponse hk (by decide)
  · simp [hk]
  · exact responseOf_eq_blankResponse hk (by decide)
  · simp [hk]

/-- Settles O45: the three operations' own steps, `exec_verify`, `exec_decodeCmd_of_no_wireCode` and `exec_crc8`. -/
theorem negativeResultsAreNotErrors : Obligations.NegativeResultsAreNotErrors := by
  refine fun s h => ⟨fun d0 d1 chk hne => ?_, fun w0 w1 hn => ?_, fun d0 d1 => ?_⟩
  · exact ⟨_, _, exec_verify h d0 d1 chk, rfl, rfl, congrArg some (decide_eq_false hne.symm)⟩
  · exact ⟨_, _, exec_decodeCmd_of_no_wireCode h hn, rfl, rfl, rfl⟩
  · exact ⟨_, _, exec_crc8 h d0 d1, rfl, rfl⟩

/-! ## The conditions of a request -/

/-- An ENCODE request is outside the defined set by its `cmd` value, whichever row it is on (R75, R98). -/
theorem outsideDefinedSet_decodeEncode (cmd : BitVec 4) (ignored : BitVec 48) :
    outsideDefinedSet (decodeEncode cmd ignored) = true ↔ 5 < cmd.toNat := by
  rw [← responseOf_kind_eq_protocolMisuse (cfg := Config.default), responseOf_decodeEncode, encodeResponse_kind]
  simp

/-- An ENCODE request reads no group (R47, R96). -/
theorem failingGroup_decodeEncode (cfg : Config) (cmd : BitVec 4) (ignored : BitVec 48) :
    failingGroup cfg (decodeEncode cmd ignored) = false := by
  rw [← Bool.not_eq_true, ← responseOf_kind_eq_checksumMismatch, responseOf_decodeEncode, encodeResponse_kind]
  split <;> simp

/-- A DECODE_CMD request is in the defined set, whichever row it is on (R98). -/
theorem outsideDefinedSet_decodeLookup (w0 w1 : Byte) : outsideDefinedSet (decodeLookup w0 w1) = false := by
  rw [← Bool.not_eq_true, ← responseOf_kind_eq_protocolMisuse (cfg := Config.default), responseOf_decodeLookup]
  simp

/-- A DECODE_CMD request reads no group (R47, R96). -/
theorem failingGroup_decodeLookup (cfg : Config) (w0 w1 : Byte) : failingGroup cfg (decodeLookup w0 w1) = false := by
  rw [← Bool.not_eq_true, ← responseOf_kind_eq_checksumMismatch, responseOf_decodeLookup]
  simp

/-- A request is outside the defined set by a reserved `op`, or by a reserved `cmd` of ENCODE (R98). -/
theorem outsideDefinedSet_decode (w : Request) :
    outsideDefinedSet (decode w) = true ↔
      7 ≤ (reqOp w).toNat ∨ reqOp w = 0x2 ∧ 5 < (reqCmd w).toNat := by
  unfold decode
  split
  case h_3 h => simp [outsideDefinedSet_decodeEncode, BitVec.toNat_eq, h]
  case h_4 h => simp [outsideDefinedSet_decodeLookup, BitVec.toNat_eq, h]
  case h_9 =>
    simp only [imp_false] at *
    exact iff_of_true rfl (.inl (by omega))
  all_goals next h => simp [outsideDefinedSet, BitVec.toNat_eq, h]

/-- A request has a failing group by its `op` and the bytes its decoder reads (R81, R96). -/
theorem failingGroup_decode (cfg : Config) (w : Request) :
    failingGroup cfg (decode w) = true ↔
      (reqOp w = 0x4 ∧ crc8 cfg (reqByte w 0) (reqByte w 1) ≠ reqByte w 2) ∨
        ((reqOp w = 0x5 ∨ reqOp w = 0x6) ∧
          (crc8 cfg (reqByte w 0) (reqByte w 1) ≠ reqByte w 2 ∨
            crc8 cfg (reqByte w 3) (reqByte w 4) ≠ reqByte w 5)) := by
  unfold decode
  split
  case h_3 h => simp [failingGroup_decodeEncode, BitVec.toNat_eq, h]
  case h_4 h => simp [failingGroup_decodeLookup, BitVec.toNat_eq, h]
  case h_9 =>
    simp only [imp_false] at *
    simp [failingGroup, BitVec.toNat_eq, *]
  all_goals next h => simp [failingGroup, groupOk, BitVec.toNat_eq, h]

/-- Settles O43: the kind is decided by `responseOf_kind`, and what its two conditions say of a request is
`outsideDefinedSet_decode` and `failingGroup_decode`. -/
theorem conditionsAreTakenInOrder : Obligations.ConditionsAreTakenInOrder := by
  refine fun s w hl => ⟨exec_faulted (decode w) hl, fun hm => ?_⟩
  refine ⟨_, _, exec_eq_next.2 ⟨⟨hl, hm⟩, rfl⟩, leave_resp _ _, ?_⟩
  simp only [responseOf_kind, outsideDefinedSet_decode, failingGroup_decode, ite_or]

end Sys2Proof.Machine
end

section
/-! PROOFS. The state `Faulted` (60_exceptions.md R100): no request has a step there, only reset leaves it, and a run
that reaches it is not finished. -/

namespace Sys2Proof.Machine

/-- A step from `Faulted` leaves the mode and the response as they are, unless it is the reset event (R100). -/
theorem step_of_faulted {s t : State} (hf : s.mode = .faulted) (h : step s = .next t) :
    (t.mode = .faulted ∧ t.resp = s.resp) ∨ (∃ rest, s.moves = .reset :: rest ∧ t.mode = .ready) := by
  obtain ⟨hl, ⟨-, rfl⟩ | ⟨w, rest, -, he⟩ | ⟨w, rest, -, -, -, rfl⟩ | ⟨p, rest, -, rfl, -⟩ | ⟨rest, hm, rfl⟩⟩ :=
    step_cases h
  · exact .inl ⟨hf, rfl⟩
  · rw [exec_faulted (s := { s with moves := rest }) (decode w) hl hf] at he
    cases he
  · exact .inl ⟨hf, rfl⟩
  · exact .inl ⟨hf, rfl⟩
  · exact .inr ⟨rest, hm, rfl⟩

/-- Settles O40: no instruction has a step (`exec_faulted`), a step is `step_of_faulted`, and the state in `Faulted`
that a run reaches is the one that `HasFaulted` asks for and `EndsWell` rules out. -/
theorem faultedIsLeftByResetOnly : Obligations.FaultedIsLeftByResetOnly :=
  ⟨fun i _ => exec_faulted i, fun _ _ => step_of_faulted, fun _ u k hk hu hf =>
    ⟨⟨k, u, hk, hu, .inl hf⟩, fun ⟨_, hnever⟩ => hnever k u hk hu hf⟩⟩

end Sys2Proof.Machine
end

section
/-! PROOFS. Several blocks side by side (60_exceptions.md R108): a step of one is put in its place in the list. -/

namespace Sys2Proof.Machine

/-- A step of one block that ends in a next state is that block's own step, put in its place (R108). -/
theorem stepInstance_eq_next {blocks after : List State} {k : Fin blocks.length} :
    stepInstance blocks k = .next after ↔ ∃ t, step blocks[k] = .next t ∧ after = blocks.set k t := by
  unfold stepInstance
  cases step blocks[k] <;> simp [eq_comm]

/-- Settles O60: the block's own step is put at its place (`stepInstance_eq_next`), and a list with one entry set
differs there alone. -/
theorem instancesShareNoState : Obligations.InstancesShareNoState := by
  intro blocks after k h
  obtain ⟨t, ht, rfl⟩ := stepInstance_eq_next.1 h
  exact ⟨⟨t, ht, List.getElem?_set_self k.isLt⟩, List.length_set, fun j hj => List.getElem?_set_ne hj.symm⟩

end Sys2Proof.Machine
end

section
/-! PROOFS. The host's reads (70_reset_and_hazards.md R121): a read faults exactly where the port holds no value, and
the ports without one are those outside the row of the last response. -/

namespace Sys2Proof.Machine

/-! ## The step of a read -/

section Read
variable {s : State} {p : Port} {rest : List Move}

theorem hostRead_of_none (h : readPort s p = none) : hostRead p s = .fault (.readOfNoValue p) := by
  simp [hostRead, h]

/-- In a legal configuration the step of a read is the host's read, with the move taken (R120). -/
theorem step_read (hl : legalConfig s.cfg = true) (hm : s.moves = .read p :: rest) :
    step s = hostRead p { s with moves := rest } := by
  unfold step
  rw [hm, if_pos hl]

/-- A read of ⊥ is a fault of the run (R121). -/
theorem step_read_of_none (hl : legalConfig s.cfg = true) (hm : s.moves = .read p :: rest)
    (h : readPort s p = none) : step s = .fault (.readOfNoValue p) := by
  rw [step_read hl hm]
  exact hostRead_of_none h

/-- A read of a port that holds a value only takes the move (R120). -/
theorem step_read_of_some (hl : legalConfig s.cfg = true) (hm : s.moves = .read p :: rest) {v : PortValue}
    (h : readPort s p = some v) : step s = .next { s with moves := rest } := by
  rw [step_read hl hm]
  exact hostRead_eq_next.2 ⟨rfl, Option.isSome_of_eq_some h⟩

end Read

/-! ## The ports without a value -/

/-- The present ports are those that hold a value (R51). -/
theorem mem_presentPorts {r : Response} {p : Port} : p ∈ r.presentPorts ↔ (portOf r p).isSome = true := by
  refine List.mem_filter.trans (and_iff_right ?_)
  cases p <;> decide

/-- A port that the last response does not write reads as ⊥ (R121). -/
theorem readPort_of_not_mem {s : State} {r : Response} {p : Port} (hr : s.resp = some r)
    (hp : p ∉ r.presentPorts) : readPort s p = none := by
  simpa [readPort, hr, mem_presentPorts] using hp

/-- Without a response every port is ⊥ (R28). -/
theorem readPort_of_resp_none {s : State} (h : s.resp = none) (p : Port) : readPort s p = none := by
  rw [readPort, h, Option.bind_none]

/-- No operation's row has `cmd_out` without `cmd_valid = 1` (R51). -/
theorem cmdOut_not_mem_okPorts (i : Instr) : Port.cmdOut ∉ okPorts false i := by
  cases i <;> simp [okPorts]

/-- With `cmd_valid = 0` an instruction leaves no `cmd_out` (R76). -/
theorem cmdOut_not_mem_presentPorts {cfg : Config} {i : Instr} (hv : (responseOf cfg i).cmdValid = some false) :
    Port.cmdOut ∉ (responseOf cfg i).presentPorts := by
  by_cases hk : (responseOf cfg i).kind = .ok
  · rw [presentPorts_responseOf hk, hv]
    exact cmdOut_not_mem_okPorts i
  · rw [failsBlank_responseOf cfg i hk] at hv
    cases hv

/-- Settles O53: the step of a read by what the port holds; a failed operation's present ports are `kind` alone
(`failsBlank_responseOf`), `cmd_out` is not among those of `cmd_valid = 0`, and reset leaves no response. -/
theorem readingNoValueFaults : Obligations.ReadingNoValueFaults := by
  refine ⟨fun s p rest hl hm => ⟨step_read_of_none hl hm, fun v => step_read_of_some hl hm⟩,
    fun i s t r p h hr hk hp => ?_, fun i s t r h hr hv => ?_, fun s => readPort_of_resp_none (resetEvent_resp s)⟩
  · obtain rfl := responseOf_of_exec h hr
    refine readPort_of_not_mem hr ?_
    rwa [failsBlank_responseOf s.cfg i hk, presentPorts_blankResponse, List.mem_singleton]
  · obtain rfl := responseOf_of_exec h hr
    exact readPort_of_not_mem hr (cmdOut_not_mem_presentPorts hv)

end Sys2Proof.Machine
end

section
/-! PROOFS. The round trip of requests (30_encoding.md R44 to R48, R62): what an instruction encodes to decodes to it,
every word decodes to a well-formed instruction, and a word is on the opcode-table row of that instruction. -/

namespace Sys2Proof

open Sys2Proof.Machine

/-! ## Decoding the two shared requests -/

/-- The request of a selector is the ENCODE form whose ignored bits are all zero (R48). -/
theorem encodeRequest_eq (cmd : BitVec 4) : encodeRequest cmd = (2 : BitVec 4) ++ cmd ++ (0 : BitVec 48) := by
  apply BitVec.eq_of_toNat_eq
  simp only [encodeRequest, packRequest, toNat_append_eq_add, BitVec.ofNat_eq_ofNat, BitVec.toNat_ofNat]
  omega

theorem decode_encodeRequest (cmd : BitVec 4) : decode (encodeRequest cmd) = decodeEncode cmd 0 := by
  rw [encodeRequest_eq, decode_of_encodeOp (reqOp_encodeForm _ _), reqCmd_encodeForm, reqBytes_encodeForm]

theorem decode_packLookup (w0 w1 : Byte) : decode (packRequest 3 0 w0 w1 0 0 0 0) = decodeLookup w0 w1 := by
  rw [decode_of_lookupOp (reqOp_packRequest ..), reqByte_0_packRequest, reqByte_1_packRequest]

theorem decode_lookupRequest (code : Word) :
    decode (lookupRequest code) = decodeLookup (code.extractLsb' 8 8) (code.extractLsb' 0 8) := decode_packLookup _ _

/-- A word on no wire-command row is on DECODE_CMD's own row (R76). -/
theorem decodeLookup_of_not_mem {w0 w1 : Byte} (h : w0 ++ w1 ∉ tableWireCodes) :
    decodeLookup w0 w1 = .decodeCmd w0 w1 := by
  simp only [tableWireCodes, List.mem_append, List.mem_cons, not_or] at h
  simp [decodeLookup, h]

/-- A request with a selector from `0x8` on is on the row that keeps its low three bits (R49). -/
theorem decode_of_reserved8F {w : Request} (h : 8 ≤ (reqOp w).toNat) :
    decode w = .reservedOp8F ((reqOp w).extractLsb' 0 3) := by
  unfold decode
  split
  case h_9 => rfl
  all_goals omega

/-! ## Encode, then decode -/

/-- The request of an instruction decodes to it, when the instruction is well formed (R62). -/
theorem decode_encode {i : Instr} (h : i.wellFormed = true) : decode (encode i) = i := by
  cases i with
  | crc8 | verify | decodeStatus | decodeMeas | decodeSerial => simp [encode, decode]
  | encode cmd ignored =>
    rw [encode, decode_of_encodeOp (reqOp_encodeForm _ _), reqCmd_encodeForm, reqBytes_encodeForm, decodeEncode,
      if_neg (by simpa [Instr.wellFormed] using h)]
  | decodeCmd w0 w1 =>
    rw [encode, decode_packLookup, decodeLookup_of_not_mem (by simpa [Instr.wellFormed] using h)]
  | encodeReadStatus | encodeSoftReset | encodeHeaterEnable | encodeHeaterDisable | encodeReadSerial
  | encodeMeasure =>
    rw [encode, decode_encodeRequest]
    rfl
  | encodeReserved67 low | encodeReserved8F low =>
    rw [encode, decode_encodeRequest]
    clear h
    decide +revert
  | reservedOp7 => simp [encode, decode]
  | reservedOp8F low =>
    rw [encode, decode_of_reserved8F, reqOp_packRequest]
    · clear h
      decide +revert
    · rw [reqOp_packRequest]
      clear h
      decide +revert
  | wireReadStatus | wireSoftReset | wireHeaterEnable | wireHeaterDisable =>
    rw [encode, decode_lookupRequest]
    rfl
  | wireReadSerial code =>
    rw [encode, decode_lookupRequest]
    have hc : code = 0x3780 ∨ code = 0x3682 := by simpa [Instr.wellFormed, serialCodes] using h
    obtain rfl | rfl := hc <;> rfl
  | wireMeasure code =>
    rw [encode, decode_lookupRequest]
    have hc : code = 0x2C06 ∨ code = 0x2C0D ∨ code = 0x2C10 ∨ code = 0x2400 ∨ code = 0x240B ∨ code = 0x2416 := by
      simpa [Instr.wellFormed, measCodes] using h
    obtain rfl | rfl | rfl | rfl | rfl | rfl := hc <;> rfl

/-- Settles O30, along the constructors of an instruction (`decode_encode`). -/
theorem decodeOfEncodeIsTheInstruction : Obligations.DecodeOfEncodeIsTheInstruction := fun _ => decode_encode

/-! ## Every word -/

/-- The row of an ENCODE request is a well-formed instruction: its general form has some ignored bit set (R48). -/
theorem wellFormed_decodeEncode (cmd : BitVec 4) (ignored : BitVec 48) :
    (decodeEncode cmd ignored).wellFormed = true := by
  by_cases hi : ignored = 0
  · subst hi
    decide +revert
  · rw [decodeEncode, if_neg hi]
    simpa [Instr.wellFormed] using hi

/-- The row of a DECODE_CMD request is a well-formed instruction: its general form is on no wire-command row. -/
theorem wellFormed_decodeLookup (w0 w1 : Byte) : (decodeLookup w0 w1).wellFormed = true := by
  by_cases hw : w0 ++ w1 ∈ tableWireCodes
  · unfold decodeLookup
    simp only
    split_ifs with hStatus hReset hEnable hDisable hSerial hMeas
    · rfl
    · rfl
    · rfl
    · rfl
    · simpa [Instr.wellFormed] using hSerial
    · simpa [Instr.wellFormed] using hMeas
    · simp [tableWireCodes, hStatus, hReset, hEnable, hDisable, hSerial, hMeas] at hw
  · simpa [decodeLookup_of_not_mem hw, Instr.wellFormed] using hw

/-- Every request word decodes to a well-formed instruction (R62). -/
theorem wellFormed_decode (w : Request) : (decode w).wellFormed = true := by
  unfold decode
  split
  case h_3 => exact wellFormed_decodeEncode _ _
  case h_4 => exact wellFormed_decodeLookup _ _
  all_goals rfl

/-- Settles O31: the instruction of a word is well formed (`wellFormed_decode`), so its request decodes to it
(`decode_encode`). -/
theorem everyWordDecodesToAWellFormedInstruction : Obligations.EveryWordDecodesToAWellFormedInstruction := fun w =>
  ⟨wellFormed_decode w, decode_encode (wellFormed_decode w)⟩

/-! ## The row of a word -/

/-- The bits of a request before its ignored ones are its two selectors (R44). -/
theorem eq_encodeRequest {w : Request} (hop : reqOp w = 0x2) (hb : reqBytes w = 0) :
    w = encodeRequest (reqCmd w) := by
  have h := congrArg BitVec.toNat hop
  have hz := congrArg BitVec.toNat hb
  rw [encodeRequest_eq]
  apply BitVec.eq_of_toNat_eq
  simp only [reqOp, reqBytes, reqCmd, toNat_append_eq_add, BitVec.extractLsb'_toNat, BitVec.ofNat_eq_ofNat,
    BitVec.toNat_ofNat, Nat.shiftRight_eq_div_pow] at h hz ⊢
  omega

/-- Of four fields, a mask with the first and the third keeps those. -/
theorem append_and_fields {k l m n : Nat} (a : BitVec k) (b : BitVec l) (c : BitVec m) (d : BitVec n) :
    (a ++ b ++ c ++ d) &&& (BitVec.allOnes k ++ (0 : BitVec l) ++ BitVec.allOnes m ++ (0 : BitVec n)) =
      a ++ (0 : BitVec l) ++ c ++ (0 : BitVec n) := by
  simp [BitVec.and_append]

/-- A row that fixes the operation selector alone, by the number of that selector (R45). -/
theorem and_opMask_of_toNat {w : Request} {n : Nat} (h : (reqOp w).toNat = n) :
    w &&& (0xF0000000000000 : Request) = BitVec.ofNat 56 (n * 2 ^ 52) := by
  apply BitVec.eq_of_toNat_eq
  rw [and_opMask, ← h, BitVec.toNat_shiftLeft, Nat.shiftLeft_eq, BitVec.toNat_ofNat]
  simp

/-- A row of one 16-bit word fixes the selector and the word of the DECODE_CMD request that carries it. -/
theorem and_wireMask (w : Request) :
    w &&& (0xF0FFFF00000000 : Request) =
      reqOp w ++ (0 : BitVec 4) ++ (reqByte w 0 ++ reqByte w 1 : Word) ++ (0 : BitVec 32) := by
  have hw : w = reqOp w ++ reqCmd w ++ (reqByte w 0 ++ reqByte w 1 : Word) ++ w.extractLsb' 0 32 := by
    apply BitVec.eq_of_toNat_eq
    simp only [reqOp, reqCmd, reqByte, toNat_append_eq_add, BitVec.extractLsb'_toNat, Nat.shiftRight_eq_div_pow]
    omega
  have hm : (0xF0FFFF00000000 : Request) =
      BitVec.allOnes 4 ++ (0 : BitVec 4) ++ BitVec.allOnes 16 ++ (0 : BitVec 32) := rfl
  exact (congrArg₂ (· &&& ·) hw hm).trans (append_and_fields ..)

/-- Every ENCODE request is on the row it decodes to. -/
theorem decodeEncode_onRow {w : Request} (hop : reqOp w = 0x2) :
    w &&& rowMask (decodeEncode (reqCmd w) (reqBytes w)) = rowMatch (decodeEncode (reqCmd w) (reqBytes w)) := by
  by_cases hb : reqBytes w = 0
  · have row (cmd : BitVec 4) :
        encodeRequest cmd &&& rowMask (decodeEncode cmd 0) = rowMatch (decodeEncode cmd 0) := by decide +revert
    rw [hb, ← row, ← eq_encodeRequest hop hb]
  · rw [decodeEncode, if_neg hb, rowMask, rowMatch, and_opMask, hop]
    rfl

/-- Every DECODE_CMD request is on the row it decodes to. -/
theorem decodeLookup_onRow {w : Request} (hop : reqOp w = 0x3) :
    w &&& rowMask (decodeLookup (reqByte w 0) (reqByte w 1)) =
      rowMatch (decodeLookup (reqByte w 0) (reqByte w 1)) := by
  simp only [decodeLookup]
  split_ifs with hStatus hReset hEnable hDisable
  · rw [rowMask, rowMatch, and_wireMask, hop, hStatus]; rfl
  · rw [rowMask, rowMatch, and_wireMask, hop, hReset]; rfl
  · rw [rowMask, rowMatch, and_wireMask, hop, hEnable]; rfl
  · rw [rowMask, rowMatch, and_wireMask, hop, hDisable]; rfl
  all_goals rw [rowMask, rowMatch, and_opMask, hop]; rfl

/-- A selector from `0x8` on is on the reserved row of its leading bit (R49). -/
theorem and_reservedMask {w : Request} (h : 8 ≤ (reqOp w).toNat) :
    w &&& (0x80000000000000 : Request) = 0x80000000000000 := by
  have hm : w &&& (0x80000000000000 : Request) = (w &&& 0xF0000000000000) &&& 0x80000000000000 := by
    rw [BitVec.and_assoc]; rfl
  rw [hm, and_opMask]
  generalize reqOp w = op at h
  decide +revert

/-- Settles O32: by the selector, `decodeEncode_onRow`, `decodeLookup_onRow`, `and_reservedMask`, or a row that fixes
the selector alone (`and_opMask`). -/
theorem everyWordIsOnItsInstructionsRow : Obligations.EveryWordIsOnItsInstructionsRow := by
  intro w
  unfold decode
  split
  case h_3 h => exact decodeEncode_onRow (BitVec.eq_of_toNat_eq h)
  case h_4 h => exact decodeLookup_onRow (BitVec.eq_of_toNat_eq h)
  case h_9 =>
    simp only [imp_false] at *
    exact and_reservedMask (by omega)
  all_goals next h => exact and_opMask_of_toNat h

end Sys2Proof
end

section
/-! PROOFS. The assembler's forms (30_encoding.md R60, R61) and requests written out from the tables (R44 to R46). -/

namespace Sys2Proof.Machine

/-! ## Fields -/

/-- A number that a field holds is that field (R60). -/
@[simp] theorem asmField_toNat {n : Nat} (v : BitVec n) : asmField n v.toNat = some v := by
  simp [asmField, v.isLt]

/-- A number too large for a field is no field (R60). -/
theorem asmField_of_le {n v : Nat} (h : 2 ^ n ≤ v) : asmField n v = none := if_neg (Nat.not_lt.2 h)

/-- A form with an operand too large for a byte is no request (R60). -/
theorem asmRequest_eq_none (op cmd : BitVec 4) {v0 v1 v2 v3 v4 v5 : Nat}
    (h : ∃ v ∈ [v0, v1, v2, v3, v4, v5], 256 ≤ v) : asmRequest op cmd v0 v1 v2 v3 v4 v5 = none := by
  rw [Option.eq_none_iff_forall_not_mem]
  intro w hw
  simp only [asmRequest, asmField, Option.mem_def, Option.bind_eq_bind, Option.bind_eq_some_iff,
    Option.ite_none_right_eq_some] at hw
  obtain ⟨_, ⟨h0, -⟩, _, ⟨h1, -⟩, _, ⟨h2, -⟩, _, ⟨h3, -⟩, _, ⟨h4, -⟩, _, ⟨h5, -⟩, -⟩ := hw
  simp only [List.mem_cons, List.not_mem_nil, or_false, exists_eq_or_imp, exists_eq_left] at h
  omega

/-! ## Forms -/

/-- A form whose operands are bytes is the request packed from them (R44, R60). -/
theorem asmRequest_bytes (op cmd : BitVec 4) (b0 b1 b2 b3 b4 b5 : Byte) :
    asmRequest op cmd b0.toNat b1.toNat b2.toNat b3.toNat b4.toNat b5.toNat =
      some (packRequest op cmd b0 b1 b2 b3 b4 b5) := by
  simp [asmRequest]

/-- ENCODE of a number is the word of that selector with no operand bit set, for a number below 16 (R60). -/
theorem assemble_encodeNumber (n : Nat) :
    assemble (.encodeNumber n) =
      if n < 16 then some ((0x2 : BitVec 4) ++ BitVec.ofNat 4 n ++ (0 : BitVec 48)) else none := by
  simp only [assemble, asmField, apply_ite (Option.map encodeRequest), Option.map_some, Option.map_none,
    encodeRequest_eq]
  rfl

/-- ENCODE of a Command's name is ENCODE of its selector (R60). -/
theorem assemble_encodeCommand (c : Command) :
    assemble (.encodeCommand c) = assemble (.encodeNumber (selectorOf c).toNat) := by
  simp [assemble]

/-- DECODE_CMD of two bytes is the word with them behind its selectors (R60). -/
theorem assemble_decodeCmd (w0 w1 : Byte) :
    assemble (.decodeCmd w0.toNat w1.toNat) = some (packRequest 3 0 w0 w1 0 0 0 0) :=
  asmRequest_bytes 3 0 w0 w1 0 0 0 0

theorem packLookup_eq (w0 w1 : Byte) :
    packRequest 3 0 w0 w1 0 0 0 0 = (0x30 : Byte) ++ w0 ++ w1 ++ (0 : BitVec 32) := by
  apply BitVec.eq_of_toNat_eq
  simp only [packRequest, toNat_append_eq_add, BitVec.ofNat_eq_ofNat, BitVec.toNat_ofNat]
  omega

/-- A form of bytes becomes the instruction that its packed request decodes to. -/
theorem decode_asmRequest_bytes {op cmd : BitVec 4} {b0 b1 b2 b3 b4 b5 : Byte} {i : Instr}
    (h : decode (packRequest op cmd b0 b1 b2 b3 b4 b5) = i) :
    (asmRequest op cmd b0.toNat b1.toNat b2.toNat b3.toNat b4.toNat b5.toNat).map decode = some i := by
  rw [asmRequest_bytes, Option.map_some, h]

/-- Settles O35: the byte forms pack their operands (`asmRequest_bytes`) into the request that encodes their
instruction (`decode_encode`), the words of ENCODE and DECODE_CMD are `assemble_encodeNumber` and `packLookup_eq`, and
an operand too large is `asmRequest_eq_none`. -/
theorem assemblerFormsBecomeTheirRequests : Obligations.AssemblerFormsBecomeTheirRequests := by
  refine ⟨fun d0 d1 => ?_, fun d0 d1 k => ?_, by decide, assemble_encodeCommand, assemble_encodeNumber,
    fun w0 w1 => ⟨?_, ?_⟩, fun m l c => ?_, fun a b c d e f => ?_, fun a b c d e f => ?_, asmField_toNat,
    fun a b h => ⟨?_, ?_⟩, fun a b c h => ⟨?_, ?_⟩, fun a b c d e f h => ⟨?_, ?_⟩, fun w => asmField_of_le⟩
  · exact decode_asmRequest_bytes (b2 := 0) (b3 := 0) (b4 := 0) (b5 := 0) (decode_encode (i := .crc8 d0 d1) rfl)
  · exact decode_asmRequest_bytes (b3 := 0) (b4 := 0) (b5 := 0) (decode_encode (i := .verify d0 d1 k) rfl)
  · rw [assemble_decodeCmd, packLookup_eq]
  · rw [assemble_decodeCmd, Option.map_some, decode_packLookup]
  · exact decode_asmRequest_bytes (b3 := 0) (b4 := 0) (b5 := 0) (decode_encode (i := .decodeStatus m l c) rfl)
  · exact decode_asmRequest_bytes (decode_encode (i := .decodeMeas a b c d e f) rfl)
  · exact decode_asmRequest_bytes (decode_encode (i := .decodeSerial a b c d e f) rfl)
  all_goals exact asmRequest_eq_none _ _ (by simpa using h)

/-- Settles O36: a request is determined word by word, and each of the eleven evaluates. -/
theorem writtenOutRequestsDecode : Obligations.WrittenOutRequestsDecode := by
  unfold Obligations.WrittenOutRequestsDecode
  decide

end Sys2Proof.Machine
end

section
/-! PROOFS. The frame of a request and of a step (10_state.md R15, R17, R29; 20_memory.md R40; 60_exceptions.md R96;
70_reset_and_hazards.md R110 to R112, R120): what stops an instruction, and what a step leaves unchanged. -/

namespace Sys2Proof.Machine

/-! ## What an instruction does -/

section Exec
variable {i : Instr} {s t : State}

/-- An instruction faults exactly in `Faulted` (R17, R100). -/
theorem exec_eq_fault {f : Fault} :
    exec i s = .fault f ↔ legalConfig s.cfg = true ∧ s.mode = .faulted ∧ f = .stuckInFaulted := by
  rw [exec_eq_accept, accept]
  cases legalConfig s.cfg <;> cases s.mode <;> simp [eq_comm]

/-- An instruction is refused exactly under an illegal configuration (R6). -/
theorem exec_eq_refused {f : Refusal} :
    exec i s = .refused f ↔ legalConfig s.cfg = false ∧ f = .illegalConfiguration := by
  rw [exec_eq_accept, accept]
  cases legalConfig s.cfg <;> cases s.mode <;> simp [eq_comm]

/-- An instruction keeps the configuration and the host's moves. -/
theorem exec_frame (h : exec i s = .next t) : t.cfg = s.cfg ∧ t.moves = s.moves := by
  obtain ⟨-, rfl⟩ := exec_eq_next.1 h
  exact ⟨rfl, rfl⟩

/-- An instruction that ends in a next state leaves a response, and the mode that its kind calls for (R17). -/
theorem exists_resp_of_exec (h : exec i s = .next t) :
    ∃ r, t.resp = some r ∧ t.mode = if r.kind = .protocolMisuse then .faulted else s.mode := by
  obtain ⟨-, rfl⟩ := exec_eq_next.1 h
  exact ⟨_, leave_resp _ _, leave_mode _ _⟩

/-- Under a legal configuration the mode alone decides whether a request is accepted (R17). -/
theorem accepts_iff (hl : legalConfig s.cfg = true) : s.Accepts ↔ s.mode ≠ .faulted := by
  refine ⟨fun h => by simp [h.ready], fun h => ⟨hl, ?_⟩⟩
  cases hm : s.mode with
  | ready => rfl
  | faulted => exact absurd hm h

/-- States with one configuration and mode accept the same requests. -/
theorem State.Accepts.congr {u : State} (h : s.Accepts) (hc : s.cfg = u.cfg) (hm : s.mode = u.mode) : u.Accepts :=
  ⟨hc ▸ h.legal, hm ▸ h.ready⟩

/-- Leaving a response where it was just left changes nothing (R40). -/
theorem leave_leave (r : Response) (s : State) : leave r (leave r s) = leave r s := by
  unfold leave
  split <;> rfl

end Exec

/-- Settles O38: a request is accepted by the mode alone (`accepts_iff`), and leaves the mode of its response's kind
(`exists_resp_of_exec`). -/
theorem instructionStepsExactlyWhenNotFaulted : Obligations.InstructionStepsExactlyWhenNotFaulted := by
  refine fun i s hl => ⟨?_, fun t => exists_resp_of_exec⟩
  rw [← accepts_iff hl]
  exact ⟨fun ⟨t, h⟩ => (exec_eq_next.1 h).1, fun h => ⟨_, exec_eq_next.2 ⟨h, rfl⟩⟩⟩

/-- Settles O48: each of the three outcomes is determined by configuration and mode (`exec_eq_next`, `exec_eq_fault`,
`exec_eq_refused`). -/
theorem responseIsAFunctionOfRequestAndMode : Obligations.ResponseIsAFunctionOfRequestAndMode := by
  refine fun i s u hc hm => ⟨fun t h => ?_, fun f h => ?_, fun f h => ?_⟩
  · obtain ⟨ha, rfl⟩ := exec_eq_next.1 h
    refine ⟨_, exec_eq_next.2 ⟨ha.congr hc hm, rfl⟩, ?_, ?_⟩
    · rw [leave_resp, leave_resp, hc]
    · rw [leave_mode, leave_mode, hc, hm]
  · rwa [exec_eq_fault, ← hc, ← hm, ← exec_eq_fault (i := i)]
  · rwa [exec_eq_refused, ← hc, ← exec_eq_refused (i := i)]

/-- Settles O49: a request keeps the rest of the state (`exec_frame`), leaves the same response again
(`leave_leave`), and makes the block `Faulted` by a ProtocolMisuse alone (`resp_of_exec_faulted`). -/
theorem requestsAreIdempotent : Obligations.RequestsAreIdempotent := by
  intro i s t h
  obtain ⟨hc, hm⟩ := exec_frame h
  refine ⟨hc, hm, fun hr => ?_, resp_of_exec_faulted h⟩
  obtain ⟨ha, rfl⟩ := exec_eq_next.1 h
  exact exec_eq_next.2 ⟨⟨ha.legal, hr⟩, (leave_leave _ _).symm⟩

/-- Settles O23: a ChecksumMismatch changes the response alone, on which no instruction depends
(`exec_withResp`). -/
theorem checksumMismatchIsNotSticky : Obligations.ChecksumMismatchIsNotSticky := by
  intro i j s t r h hr hk
  obtain rfl := responseOf_of_exec h hr
  obtain ⟨ha, rfl⟩ := exec_eq_next.1 h
  have hleave : leave (responseOf s.cfg i) s = { s with resp := some (responseOf s.cfg i) } := by
    simp [leave, hk]
  rw [hleave]
  exact ⟨ha.ready, exec_withResp j s _⟩

/-- Settles O51: the reset state is u but for the response, on which no instruction depends (`exec_withResp`). -/
theorem requestAfterResetRunsAsAfterAnyResponse : Obligations.RequestAfterResetRunsAsAfterAnyResponse := by
  intro i s u h hc hm
  have hreset : resetEvent s = { u with resp := none } := by
    rw [resetEvent, ← hc, ← hm, ← h.ready]
  have he : exec i (resetEvent s) = exec i u := by rw [hreset, exec_withResp]
  exact ⟨he, _, he.trans (exec_eq_next.2 ⟨h, rfl⟩)⟩

/-! ## What a step does -/

/-- A step keeps the configuration and takes at most the host's oldest move (R14, R120). -/
theorem step_frame {s t : State} (h : step s = .next t) : t.cfg = s.cfg ∧ t.moves = s.moves.tail := by
  obtain ⟨-, ⟨hm, rfl⟩ | ⟨w, rest, hm, he⟩ | ⟨w, rest, hm, -, -, rfl⟩ | ⟨p, rest, hm, rfl, -⟩ | ⟨rest, hm, rfl⟩⟩ :=
    step_cases h
  · exact ⟨rfl, by rw [hm, List.tail_nil]⟩
  · rw [hm]
    exact exec_frame he
  all_goals exact ⟨rfl, by rw [hm]; rfl⟩

/-- A step that changes the mode or the response is the reset event or an accepted request (R110). -/
theorem step_of_changed {s t : State} (h : step s = .next t) (hne : t.mode ≠ s.mode ∨ t.resp ≠ s.resp) :
    (∃ rest, s.moves = .reset :: rest) ∨
      ∃ w rest, s.moves = .request w :: rest ∧ exec (decode w) { s with moves := rest } = .next t := by
  obtain ⟨-, ⟨-, rfl⟩ | hreq | ⟨w, rest, -, -, -, rfl⟩ | ⟨p, rest, -, rfl, -⟩ | ⟨rest, hm, -⟩⟩ := step_cases h
  · simp at hne
  · exact .inr hreq
  · simp at hne
  · simp at hne
  · exact .inl ⟨rest, hm⟩

/-- A request that took a step was accepted, or passed over while the block awaits a reset (R17, R100). -/
theorem step_of_request {s t : State} {w : Request} {rest : List Move} (h : step s = .next t)
    (hm : s.moves = .request w :: rest) :
    (s.mode = .ready ∧ t.resp.isSome) ∨
      (s.mode = .faulted ∧ Move.reset ∈ rest ∧ t = { s with moves := rest }) := by
  by_cases ha : s.mode = .faulted ∧ Move.reset ∈ rest
  · obtain ⟨hf, hr⟩ := ha
    have hl := (step_cases h).1
    rw [step_request_awaiting hl hm hf hr] at h
    cases h
    exact .inr ⟨hf, hr, rfl⟩
  · rw [step_request hm ha] at h
    obtain ⟨ha', rfl⟩ := exec_eq_next.1 h
    exact .inl ⟨ha'.ready, rfl⟩

/-- Settles O54: the configuration and the list by `step_frame`, the rest by the form of the next move. -/
theorem stepChangesOnlyWhatItsMoveMay : Obligations.StepChangesOnlyWhatItsMoveMay := by
  intro s t h
  have hl := (step_cases h).1
  obtain ⟨hc, htail⟩ := step_frame h
  refine ⟨hc, htail, fun hm => ?_, fun p rest hm => ?_, fun w rest hm => step_of_request h hm, fun rest hm => ?_⟩
  · simpa [step, hl, hm, eq_comm] using h
  · rw [step_read hl hm] at h
    obtain ⟨rfl, -⟩ := hostRead_eq_next.1 h
    exact ⟨rfl, rfl⟩
  · rw [step_reset hl hm] at h
    cases h
    exact ⟨rfl, rfl⟩

/-- Settles O37: `step_request`, `step_request_awaiting`, and the request that `withFetchWord` presents decodes to the
table word's instruction. -/
theorem stepRunsTheDecodedInstruction : Obligations.StepRunsTheDecodedInstruction := by
  refine ⟨fun s w rest ha => step_request rfl ha,
    fun s w rest hl hf hr => ⟨exec_faulted _ hl hf, step_request_awaiting hl rfl hf hr⟩,
    fun s nbits w i hd ha => ?_⟩
  have hi : decode (tableRequest nbits w) = i := by
    unfold decodeTableWord at hd
    exact Option.some.inj (Option.ite_none_right_eq_some.1 hd).2
  exact hi ▸ step_request rfl ha

/-! ## The reset event -/

theorem run_zero (s : State) : State.run 0 s = .next s := rfl

/-- A run takes its first step and goes on from the state it ends in (R123). -/
theorem run_succ (k : Nat) (s : State) :
    State.run (k + 1) s = match step s with
      | .next t => State.run k t
      | .fault r => .fault r
      | .refused r => .refused r := by
  -- As a tactic: a proof `:= rfl` is also tried as a rule of definitional unfolding, which unfolds `step`.
  exact rfl

theorem run_of_step {s t : State} (h : step s = .next t) (k : Nat) : State.run (k + 1) s = State.run k t := by
  rw [run_succ, h]

/-- Requests made in `Faulted` before a reset meet no step and leave nothing behind (R110). -/
theorem run_requests_then_reset {s : State} (ws : List Request) (rest : List Move) (hl : legalConfig s.cfg = true)
    (hf : s.mode = .faulted) :
    State.run (ws.length + 1) { s with moves := ws.map Move.request ++ .reset :: rest } =
      .next { s with mode := .ready, resp := none, moves := rest } := by
  induction ws with
  | nil => exact run_of_step (step_reset (s := { s with moves := .reset :: rest }) hl rfl) 0
  | cons w ws ih =>
    exact (run_of_step (step_request_awaiting
      (s := { s with moves := .request w :: (ws.map Move.request ++ .reset :: rest) }) hl rfl hf (by simp)) _).trans ih

/-- Settles O50: a reset is `step_reset`, after requests in `Faulted` `run_requests_then_reset`, and no other step
changes the mode or the response (`step_of_changed`). -/
theorem resetEventMakesTheBlockReady : Obligations.ResetEventMakesTheBlockReady :=
  ⟨fun _ _ hl hm => step_reset hl hm, fun _ ws rest hl hf => run_requests_then_reset ws rest hl hf,
    fun _ _ => step_of_changed, rfl⟩

/-! ## Where a step stops -/

/-- Under a legal configuration a step stops only on a request in `Faulted` with no reset to come and on a read of ⊥
(R100, R121). -/
theorem step_next_or_stops {s : State} (hl : legalConfig s.cfg = true) :
    (∃ t, step s = .next t) ∨
      (s.mode = .faulted ∧ (∃ w rest, s.moves = .request w :: rest ∧ Move.reset ∉ rest) ∧
        step s = .fault .stuckInFaulted) ∨
      (∃ p rest, s.moves = .read p :: rest ∧ readPort s p = none ∧ step s = .fault (.readOfNoValue p)) := by
  cases hm : s.moves with
  | nil => exact .inl ⟨s, by simp [step, hl, hm]⟩
  | cons move rest =>
    cases move with
    | request w =>
      by_cases hf : s.mode = .faulted
      · by_cases hr : Move.reset ∈ rest
        · exact .inl ⟨_, step_request_awaiting hl hm hf hr⟩
        · refine .inr (.inl ⟨hf, ⟨w, rest, rfl, hr⟩, ?_⟩)
          rw [step_request hm (fun h => hr h.2)]
          exact exec_faulted _ hl hf
      · have ha : State.Accepts { s with moves := rest } := State.Accepts.congr ((accepts_iff hl).2 hf) rfl rfl
        exact .inl ⟨_, (step_request hm (fun h => hf h.1)).trans (exec_eq_next.2 ⟨ha, rfl⟩)⟩
    | read p =>
      cases hp : readPort s p with
      | none => exact .inr (.inr ⟨p, rest, rfl, hp, step_read_of_none hl hm hp⟩)
      | some v => exact .inl ⟨_, step_read_of_some hl hm hp⟩
    | reset => exact .inl ⟨_, step_reset hl hm⟩

/-- Settles O57: of the invariant only the legal configuration is needed (`step_next_or_stops`). -/
theorem stepStopsOnlyForTheHostsTwoMistakes : Obligations.StepStopsOnlyForTheHostsTwoMistakes := fun _ h =>
  step_next_or_stops h.legal

end Sys2Proof.Machine
end

section
/-! PROOFS. Runs (70_reset_and_hazards.md R123): a run from a state that accepts requests goes on until it reaches
`Faulted` or reads ⊥. -/

namespace Sys2Proof.Machine

variable {s t u : State} {k n : Nat}

/-- `k + 1` steps are `k` steps and one more (R123). -/
theorem run_succ_eq_next : State.run (k + 1) s = .next t ↔ ∃ u, State.run k s = .next u ∧ step u = .next t := by
  induction k generalizing s with
  | zero =>
    rw [run_succ]
    cases h : step s <;> simp [run_zero, h]
  | succ k ih =>
    rw [run_succ, run_succ]
    cases step s with
    | next v => exact ih
    | fault f => simp
    | refused f => simp

/-- A run that ends in a next state has passed through one at every earlier step. -/
theorem exists_run_of_le (hk : k ≤ n) (h : State.run n s = .next t) : ∃ u, State.run k s = .next u := by
  induction n, hk using Nat.le_induction generalizing t with
  | base => exact ⟨t, h⟩
  | succ n _ ih =>
    obtain ⟨v, hv, -⟩ := run_succ_eq_next.1 h
    exact ih hv

/-- A run keeps the configuration and takes the host's moves in their order (R14, R120). -/
theorem run_frame (h : State.run k s = .next u) : u.cfg = s.cfg ∧ u.moves = s.moves.drop k := by
  induction k generalizing u with
  | zero =>
    cases h
    exact ⟨rfl, rfl⟩
  | succ k ih =>
    obtain ⟨v, hv, hs⟩ := run_succ_eq_next.1 h
    obtain ⟨hc, hm⟩ := ih hv
    obtain ⟨hc', hm'⟩ := step_frame hs
    exact ⟨hc'.trans hc, by rw [hm', hm, List.tail_drop]⟩

/-- A run from an accepting state that never faults accepts requests at every move (R17, R123). -/
theorem run_accepts_of_not_hasFaulted (h : s.Accepts) (hn : ¬ s.HasFaulted) (hk : k ≤ s.moves.length) :
    ∃ u, State.run k s = .next u ∧ u.Accepts := by
  induction k with
  | zero => exact ⟨s, rfl, h⟩
  | succ k ih =>
    obtain ⟨u, hu, ha⟩ := ih (Nat.le_of_succ_le hk)
    obtain ⟨t, ht⟩ | ⟨hf, -⟩ | ⟨p, rest, -, -, hp⟩ := step_next_or_stops ha.legal
    · have hrun : State.run (k + 1) s = .next t := run_succ_eq_next.2 ⟨u, hu, ht⟩
      have hl : legalConfig t.cfg = true := (step_frame ht).1 ▸ ha.legal
      exact ⟨t, hrun, (accepts_iff hl).2 fun hf => hn ⟨k + 1, t, hk, hrun, .inl hf⟩⟩
    · exact absurd hf ((accepts_iff ha.legal).1 ha)
    · exact absurd ⟨k, u, Nat.le_of_succ_le hk, hu, .inr ⟨p, hp⟩⟩ hn

/-- A run that comes to its end has read no ⊥ on the way (R121, R123). -/
theorem not_readOfNoValue_of_runToEnd (h : s.runToEnd = .next t) (hk : k ≤ s.moves.length)
    (hu : State.run k s = .next u) (p : Port) : step u ≠ .fault (.readOfNoValue p) := by
  intro hp
  rcases hk.eq_or_lt with rfl | hlt
  · have hm : u.moves = [] := by rw [(run_frame hu).2, List.drop_length]
    unfold step at hp
    rw [hm] at hp
    split at hp <;> cases hp
  · obtain ⟨v, hv⟩ := exists_run_of_le (Nat.succ_le_of_lt hlt) h
    obtain ⟨u', hu', hs⟩ := run_succ_eq_next.1 hv
    obtain rfl : u' = u := by simpa [hu] using hu'.symm
    simp [hs] at hp

/-- Settles O41: a run to the end has met neither cause of a fault (`not_readOfNoValue_of_runToEnd`), and one that
meets neither accepts requests up to its end (`run_accepts_of_not_hasFaulted`). -/
theorem runsEndWellUnlessTheyFault : Obligations.RunsEndWellUnlessTheyFault := by
  refine fun s h => ⟨fun ⟨⟨t, ht, _⟩, hnever⟩ => ?_, fun hn => ⟨?_, fun k u hk hu hf => hn ⟨k, u, hk, hu, .inl hf⟩⟩⟩
  · rintro ⟨k, u, hk, hu, hf | ⟨p, hp⟩⟩
    · exact hnever k u hk hu hf
    · exact not_readOfNoValue_of_runToEnd ht hk hu p hp
  · obtain ⟨t, ht, ha⟩ := run_accepts_of_not_hasFaulted h hn le_rfl
    exact ⟨t, ht, ha.ready⟩

end Sys2Proof.Machine
end

section
/-! PROOFS. The invariant of the machine (10_state.md R16, R21; 30_encoding.md R51; 42_response_decode.md R83, R84):
every response an instruction leaves is sound, and a step leaves a sound response or none. -/

namespace Sys2Proof.Machine

/-! ## Every response is sound -/

/-- A response of one row's ports is shaped (R51). -/
theorem Response.shaped_of_ok {r : Response} (hk : r.kind = .ok) (hp : r.presentPorts ∈ okShapes) : r.shaped := by
  rwa [Response.shaped, if_pos hk]

/-- A shaped response without `rlen`, `status` and raw words is sound: the other clauses speak of those (R83, R84). -/
theorem sound_of_absent {cfg : Config} {r : Response} (hshape : r.shaped)
    (hcmd : r.cmdOut.isSome = (r.cmdValid == some true)) (hrlen : r.rlen = none) (hstatus : r.status = none)
    (hraw : r.rawT = none) : r.Sound cfg where
  shaped := hshape
  cmdOutWhenValid := hcmd
  rlenValues := by simp [hrlen]
  statusBits := by simp [hstatus]
  readings := by simp [hraw]

/-- An error's response holds its kind alone (R21). -/
theorem sound_blankResponse (cfg : Config) {k : Kind} (hk : k ≠ .ok) : (blankResponse k).Sound cfg :=
  sound_of_absent (by rw [Response.shaped, blankResponse_kind, if_neg hk]) rfl rfl rfl rfl

theorem sound_crcResponse (cfg : Config) (d0 d1 : Byte) : (crcResponse cfg d0 d1).Sound cfg :=
  sound_of_absent (Response.shaped_of_ok rfl (by decide : [Port.kind, .crc] ∈ okShapes)) rfl rfl rfl rfl

theorem sound_verifyResponse (cfg : Config) (d0 d1 chk : Byte) : (verifyResponse cfg d0 d1 chk).Sound cfg :=
  sound_of_absent (Response.shaped_of_ok rfl (by decide : [Port.kind, .matched] ∈ okShapes)) rfl rfl rfl rfl

/-- A Command's response length is 0, 3 or 6 (R55, R74). -/
theorem responseLength_values (c : Command) : responseLength c = 0 ∨ responseLength c = 3 ∨ responseLength c = 6 := by
  cases c <;> decide

theorem sound_commandResponse (cfg : Config) (c : Command) : (commandResponse cfg c).Sound cfg where
  shaped := Response.shaped_of_ok rfl (by decide : [Port.kind, .wire0, .wire1, .rlen] ∈ okShapes)
  cmdOutWhenValid := rfl
  rlenValues := by
    rintro _ ⟨⟩
    exact responseLength_values c
  statusBits := nofun
  readings := nofun

/-- ENCODE answers a Command's sequence or ProtocolMisuse, both sound (R73, R75). -/
theorem sound_encodeResponse (cfg : Config) (cmd : BitVec 4) : (encodeResponse cfg cmd).Sound cfg := by
  unfold encodeResponse
  cases commandOfSelector cmd with
  | some c => exact sound_commandResponse cfg c
  | none => exact sound_blankResponse cfg (by decide)

/-- The lookup answers `cmd_out` with `cmd_valid = 1`, or `cmd_valid = 0` alone, both sound (R76). -/
theorem sound_lookupResponse (cfg : Config) (w : Word) : (lookupResponse cfg w).Sound cfg := by
  unfold lookupResponse
  cases commandOfWire cfg w with
  | some c =>
    exact sound_of_absent (Response.shaped_of_ok rfl (by decide : [Port.kind, .cmdValid, .cmdOut] ∈ okShapes))
      rfl rfl rfl rfl
  | none =>
    exact sound_of_absent (Response.shaped_of_ok rfl (by decide : [Port.kind, .cmdValid] ∈ okShapes)) rfl rfl rfl rfl

theorem sound_statusResponse (cfg : Config) (w : Word) : (statusResponse w).Sound cfg where
  shaped := Response.shaped_of_ok rfl (by decide : [Port.kind, .status, .alertPending, .heaterActive, .checksumStatus,
    .rhAlert, .tAlert, .resetDetected, .commandStatus] ∈ okShapes)
  cmdOutWhenValid := rfl
  rlenValues := nofun
  statusBits := by
    rintro _ ⟨⟩
    rfl
  readings := nofun

theorem sound_measResponse (cfg : Config) (t rh : Word) : (measResponse cfg t rh).Sound cfg where
  shaped := Response.shaped_of_ok rfl (by decide : [Port.kind, .rawT, .rawRh, .temp, .hum] ∈ okShapes)
  cmdOutWhenValid := rfl
  rlenValues := nofun
  statusBits := nofun
  readings := by
    rintro _ _ ⟨⟩ ⟨⟩
    rfl

theorem sound_serialResponse (cfg : Config) (high low : Word) : (serialResponse high low).Sound cfg :=
  sound_of_absent (Response.shaped_of_ok rfl (by decide : [Port.kind, .serial] ∈ okShapes)) rfl rfl rfl rfl

/-- A decoder answers its words' response or ChecksumMismatch (R92). -/
theorem sound_decoderResponse {cfg : Config} (groupsOk : Bool) {r : Response} (h : r.Sound cfg) :
    (decoderResponse groupsOk r).Sound cfg := by
  cases groupsOk with
  | true => exact h
  | false => exact sound_blankResponse cfg (by decide)

/-- Every response an instruction leaves is sound. -/
theorem sound_responseOf (cfg : Config) (i : Instr) : (responseOf cfg i).Sound cfg := by
  cases i with
  | crc8 => exact sound_crcResponse cfg _ _
  | verify => exact sound_verifyResponse cfg _ _ _
  | encode | encodeReadStatus | encodeSoftReset | encodeHeaterEnable | encodeHeaterDisable | encodeReadSerial
  | encodeMeasure | encodeReserved67 | encodeReserved8F =>
    rw [responseOf]
    exact sound_encodeResponse cfg _
  | decodeStatus => exact sound_decoderResponse _ (sound_statusResponse cfg _)
  | decodeMeas => exact sound_decoderResponse _ (sound_measResponse cfg _ _)
  | decodeSerial => exact sound_decoderResponse _ (sound_serialResponse cfg _ _)
  | reservedOp7 | reservedOp8F => exact sound_blankResponse cfg (by decide)
  | decodeCmd | wireReadStatus | wireSoftReset | wireHeaterEnable | wireHeaterDisable | wireReadSerial
  | wireMeasure =>
    rw [responseOf]
    exact sound_lookupResponse cfg _

/-! ## The invariant -/

/-- The invariant says nothing of the host's moves. -/
theorem State.Inv.withMoves {s : State} (h : s.Inv) (rest : List Move) : State.Inv { s with moves := rest } :=
  ⟨h.legal, h.sound, h.faulted⟩

/-- The reset event leaves the invariant: no response, and `Ready` (R111). -/
theorem inv_resetEvent {s : State} (hl : legalConfig s.cfg = true) : (resetEvent s).Inv where
  legal := hl
  sound := by simp
  faulted := by simp

/-- An accepted instruction leaves the invariant: a sound response, and `Faulted` exactly with ProtocolMisuse (R17). -/
theorem inv_of_exec {i : Instr} {s t : State} (h : exec i s = .next t) : t.Inv := by
  obtain ⟨ha, rfl⟩ := exec_eq_next.1 h
  refine ⟨ha.legal, fun r hr => ?_, ?_⟩
  · obtain rfl : responseOf s.cfg i = r := by simpa using hr
    exact sound_responseOf s.cfg i
  · simp [ha.ready]

/-- Settles O55, along the cases of a step: it leaves the block as it was, runs an instruction (`inv_of_exec`), or is
the reset event (`inv_resetEvent`). -/
theorem everyStepKeepsTheInvariant : Obligations.EveryStepKeepsTheInvariant := by
  intro s t hinv h
  obtain ⟨hl, ⟨-, rfl⟩ | ⟨w, rest, -, he⟩ | ⟨w, rest, -, -, -, rfl⟩ | ⟨p, rest, -, rfl, -⟩ | ⟨rest, -, rfl⟩⟩ :=
    step_cases h
  · exact hinv
  · exact inv_of_exec he
  · exact hinv.withMoves rest
  · exact hinv.withMoves rest
  · exact inv_resetEvent (s := { s with moves := rest }) hl

/-- Settles O56: the reset state is one that a reset event leaves. -/
theorem invariantHoldsAtReset : Obligations.InvariantHoldsAtReset :=
  inv_resetEvent (s := State.reset) legalConfig_default

end Sys2Proof.Machine
end

section
/-! PROOFS. The Command side (41_command_codec.md R71, R73, R76, R77, R79; 00_scope.md R6): ENCODE of a Command and
DECODE_CMD of its code are inverse, and neither uses the checksum. -/

namespace Sys2Proof.Machine

/-! ## The legal lists -/

/-- The words of the wire-command rows are pairwise distinct (R53). -/
theorem tableWireCodes_nodup : tableWireCodes.Nodup := by decide

/-- Codes from the legal lists are distinct from the fixed codes and from one another: the six are a sublist of the
words of the wire-command rows (R6). -/
theorem wireCode_injective_of_lists {cfg : Config} (hm : cfg.measCmd ∈ measCodes) (hs : cfg.serialCmd ∈ serialCodes)
    {a b : Command} : wireCode cfg a = wireCode cfg b → a = b := by
  have hsub : (allCommands.map (wireCode cfg)).Sublist tableWireCodes :=
    ((List.Sublist.refl [readStatusCode, softResetCode, heaterEnableCode, heaterDisableCode]).append
      (List.singleton_sublist.2 hs)).append (List.singleton_sublist.2 hm)
  exact wireCodes_nodup_iff.1 (tableWireCodes_nodup.sublist hsub) a b

/-- Settles O59: the lists of the statement are the legal lists (`wireCode_injective_of_lists`). -/
theorem legalListsGiveDistinctCodes : Obligations.LegalListsGiveDistinctCodes := fun _ hm hs _ _ =>
  wireCode_injective_of_lists hm hs

/-! ## ENCODE -/

/-- A `cmd` value up to 5 is some Command's selector (R46). -/
theorem exists_selectorOf {cmd : BitVec 4} (h : cmd.toNat ≤ 5) : ∃ c, selectorOf c = cmd := by
  have hmem : ∃ c ∈ allCommands, selectorOf c = cmd := by decide +revert
  obtain ⟨c, -, hc⟩ := hmem
  exact ⟨c, hc⟩

/-- ENCODE of a Command's selector, whatever the ignored bits hold, leaves that Command's response (R48, R73). -/
theorem exec_encode_selectorOf {s : State} (h : s.Accepts) (c : Command) (ignored : BitVec 48) :
    exec (.encode (selectorOf c) ignored) s = .next { s with resp := some (commandResponse s.cfg c) } :=
  exec_commandRow h c (wireCode s.cfg c) rfl rfl rfl rfl

/-- Settles O9: a `cmd` value up to 5 is a Command's selector (`exists_selectorOf`), whose ENCODE is
`exec_encode_selectorOf`. -/
theorem encodeProducesTheWireSequence : Obligations.EncodeProducesTheWireSequence := by
  intro s h cmd ignored hcmd
  obtain ⟨c, rfl⟩ := exists_selectorOf hcmd
  exact ⟨c, rfl, exec_encode_selectorOf h c ignored⟩

/-- Settles O15: the row's response replaces the last one, which the reset event would clear. -/
theorem encodeSoftResetDoesNotResetTheBlock : Obligations.EncodeSoftResetDoesNotResetTheBlock := fun s h =>
  ⟨_, exec_commandRow h .softReset softResetCode rfl rfl (by decide) (by decide), rfl, rfl, rfl, rfl,
    fun he => by simpa using congrArg State.resp he⟩

/-! ## The round trip -/

/-- The two bytes of a code, most significant first, make up that code (R32, R33). -/
theorem wireMsb_append_wireLsb (code : Word) : wireMsb code ++ wireLsb code = code := by
  apply BitVec.eq_of_toNat_eq
  rw [toNat_append_eq_add, wireMsb, wireLsb, BitVec.extractLsb'_toNat, BitVec.extractLsb'_toNat,
    Nat.shiftRight_eq_div_pow]
  omega

/-- Settles O14: the two bytes ENCODE leaves make up the Command's code (`wireMsb_append_wireLsb`), which DECODE_CMD
maps back; two Commands with the same bytes would have the same code. -/
theorem encodedCommandDecodesToItsSelector : Obligations.EncodedCommandDecodesToItsSelector := by
  intro s h cmd ignored hcmd
  obtain ⟨c, rfl⟩ := exists_selectorOf hcmd
  refine ⟨_, commandResponse s.cfg c, _, _, exec_encode_selectorOf h c ignored, rfl, rfl, rfl, rfl,
    exec_decodeCmd_of_wireCode (h.congr rfl rfl) (wireMsb_append_wireLsb _).symm, ?_⟩
  rintro cmd' t' r' hcmd' hne he hr ⟨h0, h1⟩
  obtain ⟨d, rfl⟩ := exists_selectorOf hcmd'
  obtain rfl : r' = commandResponse s.cfg d := by
    rw [exec_encode_selectorOf h] at he
    cases he
    exact (Option.some.inj hr).symm
  have hcode : wireCode s.cfg d = wireCode s.cfg c := by
    rw [← wireMsb_append_wireLsb (wireCode s.cfg d), ← wireMsb_append_wireLsb (wireCode s.cfg c),
      Option.some.inj h0, Option.some.inj h1]
  exact hne (congrArg selectorOf (wireCode_injective h.legal hcode))

/-! ## The wire-command rows -/

/-- An accepted lookup of a Command's code answers that Command's selector (R76). -/
theorem exec_lookup_of_wireCode {i : Instr} {s : State} (h : s.Accepts) {c : Command}
    (hi : responseOf s.cfg i = lookupResponse s.cfg (wireCode s.cfg c)) :
    exec i s = .next { s with
      resp := some { blankResponse .ok with cmdValid := some true, cmdOut := some (selectorOf c) } } := by
  rw [exec_of_ok h (by rw [hi, lookupResponse_kind]), hi, lookupResponse, commandOfWire_wireCode h.legal]

/-- An accepted lookup of a word that is a Command's code only as the code of `c` answers whether it is (R58, R76). -/
theorem exec_lookup_of_only {i : Instr} {s : State} (h : s.Accepts) {w : Word} {c : Command}
    (hi : responseOf s.cfg i = lookupResponse s.cfg w) (hw : ∀ d, d ≠ c → wireCode s.cfg d ≠ w) :
    exec i s = .next { s with
      resp := some (if w = wireCode s.cfg c
        then { blankResponse .ok with cmdValid := some true, cmdOut := some (selectorOf c) }
        else { blankResponse .ok with cmdValid := some false }) } := by
  split
  case isTrue he => exact exec_lookup_of_wireCode h (he ▸ hi)
  case isFalse hne =>
    have hnone : ∀ d, wireCode s.cfg d ≠ w := fun d => by
      by_cases hd : d = c
      · exact hd ▸ Ne.symm hne
      · exact hw d hd
    rw [exec_of_ok h (by rw [hi, lookupResponse_kind]), hi, lookupResponse, commandOfWire_eq_none.2 hnone]

section Lists
variable {cfg : Config} (hl : legalConfig cfg = true) {code : Word} {d : Command}
include hl

/-- A legal serial-number code is no other Command's code: with it as the parameter the codes would still be distinct
(R6). -/
theorem wireCode_ne_serialCode (hc : code ∈ serialCodes) (hd : d ≠ .readSerial) : wireCode cfg d ≠ code := by
  rintro rfl
  obtain ⟨-, hm, -, -⟩ := legalConfig_iff.1 hl
  have he : wireCode { cfg with serialCmd := wireCode cfg d } d = wireCode cfg d := by cases d <;> rfl
  exact hd (wireCode_injective_of_lists (cfg := { cfg with serialCmd := wireCode cfg d }) (b := .readSerial) hm hc he)

/-- A legal single-shot code is no other Command's code, for the same reason (R6). -/
theorem wireCode_ne_measCode (hc : code ∈ measCodes) (hd : d ≠ .measure) : wireCode cfg d ≠ code := by
  rintro rfl
  obtain ⟨-, -, hs, -⟩ := legalConfig_iff.1 hl
  have he : wireCode { cfg with measCmd := wireCode cfg d } d = wireCode cfg d := by cases d <;> rfl
  exact hd (wireCode_injective_of_lists (cfg := { cfg with measCmd := wireCode cfg d }) (b := .measure) hc hs he)

end Lists

/-- Settles O13: the four fixed rows are lookups of a Command's code, the two others lookups of a word that only one
Command can have. -/
theorem wireRowsLookUpTheirWord : Obligations.WireRowsLookUpTheirWord := by
  refine fun s h => ⟨exec_lookup_of_wireCode (c := .readStatus) h rfl, exec_lookup_of_wireCode (c := .softReset) h rfl,
    exec_lookup_of_wireCode (c := .heaterEnable) h rfl, exec_lookup_of_wireCode (c := .heaterDisable) h rfl,
    fun code hw => ?_, fun code hw => ?_⟩
  · exact exec_lookup_of_only (c := .readSerial) h rfl fun d =>
      wireCode_ne_serialCode h.legal (List.contains_iff_mem.1 hw)
  · exact exec_lookup_of_only (c := .measure) h rfl fun d =>
      wireCode_ne_measCode h.legal (List.contains_iff_mem.1 hw)

/-! ## No use of the checksum -/

/-- A configuration with the three checksum parameters replaced (R63). -/
def withChecksum (cfg : Config) (poly init xorOut : Byte) : Config :=
  { cfg with crcPoly := poly, crcInit := init, crcXorOut := xorOut }

/-- The instruction is a form of ENCODE of a Command, a general ENCODE, a DECODE_CMD or a wire-command row (R71). -/
def IsCommandSide (i : Instr) : Prop :=
  i ∈ [.encodeReadStatus, .encodeSoftReset, .encodeHeaterEnable, .encodeHeaterDisable,
      .encodeReadSerial, .encodeMeasure, .wireReadStatus, .wireSoftReset, .wireHeaterEnable, .wireHeaterDisable] ∨
    (∃ cmd ignored, i = .encode cmd ignored) ∨ (∃ w0 w1, i = .decodeCmd w0 w1) ∨
    (∃ code, i = .wireReadSerial code) ∨ (∃ code, i = .wireMeasure code)

section Checksum
variable (cfg : Config) (poly init xorOut : Byte)

/-- The wire codes do not depend on the checksum parameters (R53). -/
theorem wireCode_withChecksum : wireCode (withChecksum cfg poly init xorOut) = wireCode cfg := by
  funext c
  cases c <;> rfl

theorem encodeResponse_withChecksum (cmd : BitVec 4) :
    encodeResponse (withChecksum cfg poly init xorOut) cmd = encodeResponse cfg cmd := by
  simp only [encodeResponse, commandResponse, wireCode_withChecksum]

theorem lookupResponse_withChecksum (w : Word) :
    lookupResponse (withChecksum cfg poly init xorOut) w = lookupResponse cfg w := by
  simp only [lookupResponse, commandOfWire, wireCode_withChecksum]

/-- The Command side's responses do not depend on the checksum parameters (R71). -/
theorem responseOf_withChecksum {i : Instr} (hi : IsCommandSide i) :
    responseOf (withChecksum cfg poly init xorOut) i = responseOf cfg i := by
  obtain hrow | ⟨cmd, ignored, rfl⟩ | ⟨w0, w1, rfl⟩ | ⟨code, rfl⟩ | ⟨code, rfl⟩ := hi
  · simp only [List.mem_cons, List.not_mem_nil, or_false] at hrow
    obtain rfl | rfl | rfl | rfl | rfl | rfl | rfl | rfl | rfl | rfl := hrow <;>
      simp only [responseOf, encodeResponse_withChecksum, lookupResponse_withChecksum]
  · exact encodeResponse_withChecksum cfg poly init xorOut cmd
  · exact lookupResponse_withChecksum cfg poly init xorOut _
  · exact lookupResponse_withChecksum cfg poly init xorOut code
  · exact lookupResponse_withChecksum cfg poly init xorOut code

/-- Any polynomial with bit 0 set keeps a configuration legal (R6). -/
theorem legalConfig_withChecksum (hl : legalConfig cfg = true) (hp : poly.getLsbD 0 = true) :
    legalConfig (withChecksum cfg poly init xorOut) = true := by
  obtain ⟨hinj, hm, hs, -⟩ := legalConfig_iff.1 hl
  exact legalConfig_iff.2 ⟨by rwa [wireCode_withChecksum], hm, hs, hp⟩

end Checksum

/-- Settles O8: with the parameters replaced the configuration stays legal and the response is the same
(`responseOf_withChecksum`). -/
theorem commandSideNeverUsesTheChecksum : Obligations.CommandSideNeverUsesTheChecksum := by
  intro s poly init xorOut h hp i hi
  have hr := responseOf_withChecksum s.cfg poly init xorOut hi
  refine ⟨_, _, exec_eq_next.2 ⟨h, rfl⟩,
    exec_eq_next.2 ⟨⟨legalConfig_withChecksum s.cfg poly init xorOut h.legal hp, h.ready⟩, rfl⟩, ?_, ?_⟩
  · exact congrArg some hr
  · exact congrArg (fun r : Response => if r.kind = .protocolMisuse then Mode.faulted else s.mode) hr

end Sys2Proof.Machine
end

section
/-! PROOFS. The checksum over GF(2) (40_checksum.md R63 to R69): the shifts are linear and, with bit 0 of the generator
set, invertible, and absorbing a byte is multiplication by x^8 modulo the generator. -/

namespace Sys2Proof.Machine

/-! ## The checksum is affine -/

/-- The checksum is linear in its two bytes but for the checksum of two zero bytes (R69). -/
theorem crc8_eq_xor (cfg : Config) (d0 d1 : Byte) :
    crc8 cfg d0 d1 =
      crcShifts cfg.crcPoly 8 (crcShifts cfg.crcPoly 8 d0) ^^^ crcShifts cfg.crcPoly 8 d1 ^^^ crc8 cfg 0x00 0x00 := by
  simp only [crc8, crc8Update, crcShifts_xor, BitVec.ofNat_eq_ofNat, BitVec.xor_zero]
  ac_rfl

/-- An affine map of a sum is the sum of its values and of its constant (R69). -/
theorem crc8_xor (cfg : Config) (u0 u1 v0 v1 : Byte) :
    crc8 cfg (u0 ^^^ v0) (u1 ^^^ v1) = crc8 cfg u0 u1 ^^^ crc8 cfg v0 v1 ^^^ crc8 cfg 0x00 0x00 := by
  rw [crc8_eq_xor cfg (u0 ^^^ v0), crc8_eq_xor cfg u0, crc8_eq_xor cfg v0, crcShifts_xor, crcShifts_xor, crcShifts_xor]
  generalize crc8 cfg 0x00 0x00 = z
  have hz (a b : Byte) : a ^^^ z ^^^ (b ^^^ z) = a ^^^ b := by
    calc a ^^^ z ^^^ (b ^^^ z) = a ^^^ b ^^^ (z ^^^ z) := by ac_rfl
      _ = a ^^^ b := by rw [BitVec.xor_self, BitVec.xor_zero]
  rw [hz]
  ac_rfl

/-- A shift as arithmetic on 8 bits: doubling modulo 256, and the generator where bit 7 was set (R64). -/
theorem toNat_crcShift (poly c : Byte) :
    (crcShift poly c).toNat = (2 * c.toNat % 256) ^^^ (if 128 ≤ c.toNat then poly.toNat else 0) := by
  have hshift : (c <<< 1).toNat = 2 * c.toNat % 256 := by
    rw [BitVec.toNat_shiftLeft, Nat.shiftLeft_eq, Nat.mul_comm]
  by_cases h : 128 ≤ c.toNat <;> simp [crcShift, BitVec.msb_eq_decide, hshift, h]

/-- Without a final XOR, absorbing a group's own checksum leaves the zero accumulator (R69). -/
theorem crc8_residue {cfg : Config} (h : cfg.crcXorOut = 0x00) (d0 d1 : Byte) :
    crc8Update cfg.crcPoly (crc8Update cfg.crcPoly (crc8Update cfg.crcPoly cfg.crcInit d0) d1) (crc8 cfg d0 d1) =
      0x00 := by
  rw [crc8, h, BitVec.ofNat_eq_ofNat, BitVec.xor_zero, crc8Update, BitVec.xor_self]
  exact crcShifts_zero cfg.crcPoly 8

/-- Settles O5: `crc8_xor`, `toNat_crcShift` and `crc8_residue`. -/
theorem checksumIsAffineWithZeroResidue : Obligations.ChecksumIsAffineWithZeroResidue :=
  ⟨crc8_xor, toNat_crcShift, fun _ => crc8_residue⟩

/-- Settles O6: VERIFY compares with the checksum (`exec_verify`), and a nonzero error changes every byte. -/
theorem verifyDetectsEveryWrongCheckByte : Obligations.VerifyDetectsEveryWrongCheckByte := by
  refine fun s h d0 d1 => ⟨?_, fun e he => ?_⟩
  · rw [exec_verify h, decide_eq_true rfl]
  · have hne : crc8 s.cfg d0 d1 ≠ crc8 s.cfg d0 d1 ^^^ e := fun hc =>
      he ((BitVec.xor_right_inj _).1 (hc.symm.trans BitVec.xor_zero.symm))
    rw [exec_verify h, decide_eq_false hne]

/-! ## The shifts are invertible -/

section Invertible
variable {poly : Byte} (hp : poly.getLsbD 0 = true)
include hp

/-- With bit 0 of the generator set a shift forgets nothing (R6). -/
theorem eq_zero_of_crcShift_eq_zero {c : Byte} (h : crcShift poly c = 0) : c = 0 := by
  have hmsb : c.msb = false := by
    by_contra hm
    rw [Bool.not_eq_false] at hm
    have h0 := congrArg (BitVec.getLsbD · 0) h
    have hp0 : poly[0] = true := by simpa using hp
    simp [crcShift, hm, hp0] at h0
  have hc : c <<< 1 = 0 := by simpa [crcShift, hmsb] using h
  apply BitVec.eq_of_toNat_eq
  have hn := congrArg BitVec.toNat hc
  rw [BitVec.toNat_shiftLeft, Nat.shiftLeft_eq] at hn
  rw [BitVec.msb_eq_decide, decide_eq_false_iff_not] at hmsb
  simp at hn hmsb ⊢
  omega

theorem eq_zero_of_crcShifts_eq_zero {k : Nat} {c : Byte} (h : crcShifts poly k c = 0) : c = 0 := by
  induction k generalizing c with
  | zero => exact h
  | succ k ih => exact eq_zero_of_crcShift_eq_zero hp (ih h)

/-- The shifts are injective, being linear with a zero kernel. -/
theorem crcShifts_injective (k : Nat) : Function.Injective (crcShifts poly k) := fun a b h =>
  BitVec.xor_eq_zero_iff.1 (eq_zero_of_crcShifts_eq_zero hp (by rw [crcShifts_xor, h, BitVec.xor_self]; rfl))

end Invertible

/-- With bit 0 of the generator set, each first byte has exactly one second byte of a given checksum (R66). -/
theorem existsUnique_crc8_eq {cfg : Config} (hp : cfg.crcPoly.getLsbD 0 = true) (d0 c : Byte) :
    ∃! d1, crc8 cfg d0 d1 = c := by
  have hbij : Function.Bijective (crc8 cfg d0) := by
    refine Finite.injective_iff_bijective.1 fun a b h => ?_
    rw [crc8_eq_xor cfg d0 a, crc8_eq_xor cfg d0 b, BitVec.xor_left_inj, BitVec.xor_right_inj] at h
    exact crcShifts_injective hp 8 h
  exact hbij.existsUnique c

/-- So each checksum comes from as many pairs as there are first bytes (R66). -/
theorem ncard_crc8_eq {cfg : Config} (hp : cfg.crcPoly.getLsbD 0 = true) (c : Byte) :
    Set.ncard {p : Byte × Byte | crc8 cfg p.1 p.2 = c} = 256 := by
  have hfst : Set.BijOn Prod.fst {p : Byte × Byte | crc8 cfg p.1 p.2 = c} Set.univ := by
    refine ⟨fun _ _ => trivial, ?_, fun d0 _ => ?_⟩
    · rintro ⟨d0, d1⟩ h ⟨_, e1⟩ h' ⟨⟩
      exact Prod.ext rfl ((existsUnique_crc8_eq hp d0 c).unique h h')
    · obtain ⟨d1, h, -⟩ := existsUnique_crc8_eq hp d0 c
      exact ⟨(d0, d1), h, rfl⟩
  rw [hfst.ncard_eq, Set.ncard_univ]
  exact Nat.card_eq_of_equiv_fin BitVec.equivFin.toEquiv

/-- The checksum of the all-one word at the default configuration (R66). -/
theorem crc8_default_ones : crc8 Config.default 0xFF 0xFF = 0xAC := by
  have hfirst : crc8Update 0x31 0xFF 0xFF = 0x00 := by
    rw [crc8Update, BitVec.xor_self]
    exact crcShifts_zero 0x31 8
  have hsecond : crc8Update 0x31 0x00 0xFF = 0xAC := by decide
  rw [crc8, Config.default, hfirst, hsecond]
  rfl

/-- Settles O2: the count is `ncard_crc8_eq`, and the corner cases are two evaluated checksums. -/
theorem crc8CornerCases : Obligations.Crc8CornerCases := by
  refine ⟨ncard_crc8_eq (by decide), fun s h hc => ⟨?_, ?_, ?_, ?_⟩⟩
  · rw [exec_crc8 h, hc, crc8_default_zero]
  · rw [exec_crc8 h, hc, crc8_default_ones]
  · rw [exec_verify h, hc, crc8_default_zero]
    rfl
  · rw [exec_verify h, hc, crc8_default_ones]
    rfl

/-! ## The checksum is a remainder -/

open Polynomial

/-- A byte as the polynomial over GF(2) whose coefficients are its bits (R63). -/
noncomputable def bytePolynomial (b : Byte) : (ZMod 2)[X] := ∑ i ∈ Finset.range 8, if b.getLsbD i then X ^ i else 0

/-- Exclusive or is the sum over GF(2). -/
theorem bytePolynomial_xor (a b : Byte) : bytePolynomial (a ^^^ b) = bytePolynomial a + bytePolynomial b := by
  rw [bytePolynomial, bytePolynomial, bytePolynomial, ← Finset.sum_add_distrib]
  refine Finset.sum_congr rfl fun i _ => ?_
  rw [BitVec.getLsbD_xor]
  cases a.getLsbD i <;> cases b.getLsbD i <;> simp [CharTwo.add_self_eq_zero]

/-- A logical shift is the product with x, without the coefficient of x^8. -/
theorem bytePolynomial_shiftLeft (c : Byte) :
    bytePolynomial (c <<< 1) + (if c.msb then X ^ 8 else 0) = bytePolynomial c * X := by
  have hbit (i : Nat) (hi : i ∈ Finset.range 7) : (c <<< 1).getLsbD (i + 1) = c.getLsbD i := by
    have := Finset.mem_range.1 hi
    simp [show i + 1 < 8 by omega, show i < 8 by omega]
  have hmul (i : Nat) :
      (if c.getLsbD i then X ^ i else 0 : (ZMod 2)[X]) * X = if c.getLsbD i then X ^ (i + 1) else 0 := by
    rw [ite_mul, zero_mul, pow_succ]
  rw [bytePolynomial, bytePolynomial, Finset.sum_range_succ', Finset.sum_range_succ _ 7, add_mul, Finset.sum_mul]
  simp only [hmul]
  rw [Finset.sum_congr rfl fun i hi => by rw [hbit i hi]]
  simp [BitVec.msb_eq_getLsbD_last]

/-- One shift is the product with x modulo the generator: it subtracts the generator where x^8 appears (R64). -/
theorem dvd_crcShift (poly c : Byte) :
    X ^ 8 + bytePolynomial poly ∣ bytePolynomial (crcShift poly c) - bytePolynomial c * X := by
  rw [← bytePolynomial_shiftLeft, crcShift]
  cases c.msb with
  | false => simp
  | true =>
    have hsum : bytePolynomial (c <<< 1) + bytePolynomial poly - (bytePolynomial (c <<< 1) + X ^ 8) =
        X ^ 8 + bytePolynomial poly := by rw [add_sub_add_left_eq_sub, CharTwo.sub_eq_add, add_comm]
    simp [bytePolynomial_xor, hsum]

/-- `k` shifts are the product with x^k modulo the generator (R64). -/
theorem dvd_crcShifts (poly : Byte) (k : Nat) (c : Byte) :
    X ^ 8 + bytePolynomial poly ∣ bytePolynomial (crcShifts poly k c) - bytePolynomial c * X ^ k := by
  induction k generalizing c with
  | zero => simp [crcShifts]
  | succ k ih =>
    have h := (ih (crcShift poly c)).add ((dvd_crcShift poly c).mul_right (X ^ k))
    rw [crcShifts]
    convert h using 1
    ring

/-- Settles O4: the statement's reading of a byte is `bytePolynomial`, and absorbing a byte is eight shifts
(`dvd_crcShifts`). -/
theorem checksumIsTheRemainderByTheGenerator : Obligations.ChecksumIsTheRemainderByTheGenerator := by
  intro f hf poly c d
  obtain rfl : f = bytePolynomial := funext hf
  exact dvd_crcShifts poly 8 (c ^^^ d)

end Sys2Proof.Machine
end

section
/-! PROOFS. The detection strength of a group (40_checksum.md R70): an error pattern goes undetected exactly when its
syndrome is zero, and the syndrome is the sum of the remainders of the powers of x where the pattern has a bit. -/

namespace Sys2Proof.Machine

/-! ## The bits of an error pattern -/

section Bits
variable {w : Nat}

/-- The positions of the bits of a pattern, in order. -/
def bitPositions (e : BitVec w) : List Nat := (List.range w).filter fun i => e.getLsbD i

theorem mem_bitPositions {e : BitVec w} {i : Nat} : i ∈ bitPositions e ↔ e.getLsbD i = true := by
  rw [bitPositions, List.mem_filter, List.mem_range]
  exact and_iff_right_of_imp BitVec.lt_of_getLsbD

theorem bitPositions_sortedLT (e : BitVec w) : (bitPositions e).SortedLT :=
  (List.pairwise_lt_range.filter _).sortedLT

theorem bitPositions_injective : Function.Injective (bitPositions (w := w)) := fun e e' h =>
  BitVec.eq_of_getLsbD_eq fun i _ => by
    rw [Bool.eq_iff_iff, ← mem_bitPositions, ← mem_bitPositions, h]

/-- Every list of positions in order is that of a pattern. -/
theorem exists_bitPositions_eq {l : List Nat} (h : l.Sublist (List.range w)) : ∃ e : BitVec w, bitPositions e = l := by
  refine ⟨BitVec.ofFnLE fun i => decide (i.val ∈ l), (bitPositions_sortedLT _).eq_of_mem_iff
    (List.pairwise_lt_range.sublist h).sortedLT fun i => ?_⟩
  have hlt : i ∈ l → i < w := fun hi => List.mem_range.1 (h.subset hi)
  rw [mem_bitPositions, BitVec.getLsbD_ofFnLE]
  by_cases hi : i < w <;> simp [hi]
  exact fun hl => hi (hlt hl)

/-! ## Additive maps -/

/-- The exclusive or of a list of bytes. -/
def xorSum (l : List Byte) : Byte := l.foldr (· ^^^ ·) 0

theorem xorSum_append (l l' : List Byte) : xorSum (l ++ l') = xorSum l ^^^ xorSum l' := by
  induction l with
  | nil => exact BitVec.zero_xor.symm
  | cons b l ih => exact (congrArg (b ^^^ ·) ih).trans (BitVec.xor_assoc ..).symm

/-- An additive map of bit vectors over GF(2). -/
def IsAdditive (φ : BitVec w → Byte) : Prop := ∀ a b, φ (a ^^^ b) = φ a ^^^ φ b

theorem IsAdditive.map_zero {φ : BitVec w → Byte} (h : IsAdditive φ) : φ 0 = 0 := by
  have h0 := h 0 0
  rwa [BitVec.xor_self, BitVec.xor_self] at h0

/-- One more low bit of a pattern. -/
theorem setWidth_setWidth_succ (e : BitVec w) (n : Nat) :
    (e.setWidth (n + 1)).setWidth w =
      (e.setWidth n).setWidth w ^^^ (if e.getLsbD n then BitVec.twoPow w n else 0) := by
  apply BitVec.eq_of_getLsbD_eq
  intro i hi
  rcases lt_trichotomy i n with h | rfl | h
  · cases e.getLsbD n <;> simp [hi, h, h.ne, Nat.lt_succ_of_lt h]
  · cases hb : e.getLsbD i <;> simp [hi, hb, -BitVec.getLsbD_eq_getElem]
  · cases e.getLsbD n <;> simp [hi, h.ne', h.not_gt, Nat.not_lt.2 (Nat.succ_le_of_lt h)]

/-- An additive map is the sum of its values at the single bits of its argument. -/
theorem IsAdditive.eq_xorSum {φ : BitVec w → Byte} (h : IsAdditive φ) (e : BitVec w) :
    φ e = xorSum ((bitPositions e).map fun i => φ (BitVec.twoPow w i)) := by
  have low (n : Nat) : φ ((e.setWidth n).setWidth w) =
      xorSum (((List.range n).filter fun i => e.getLsbD i).map fun i => φ (BitVec.twoPow w i)) := by
    induction n with
    | zero =>
      have hz : (e.setWidth 0).setWidth w = 0 := by rw [BitVec.eq_nil (e.setWidth 0)]; exact BitVec.setWidth_zero ..
      rw [hz]
      exact h.map_zero
    | succ n ih =>
      rw [setWidth_setWidth_succ, h, ih, List.range_succ, List.filter_append, List.map_append, xorSum_append]
      cases hb : e.getLsbD n with
      | true => simp [hb, xorSum]
      | false => simpa [hb, xorSum] using h.map_zero
  simpa [bitPositions] using low w

/-- Additive maps that agree at the bits of a pattern agree there. -/
theorem IsAdditive.congr {φ ψ : BitVec w → Byte} (hφ : IsAdditive φ) (hψ : IsAdditive ψ) {e : BitVec w}
    (h : ∀ i ∈ bitPositions e, φ (BitVec.twoPow w i) = ψ (BitVec.twoPow w i)) : φ e = ψ e := by
  rw [hφ.eq_xorSum, hψ.eq_xorSum, List.map_congr_left h]

end Bits

/-! ## The syndrome -/

/-- What an error pattern adds to a group's comparison of its check byte, at the default generator. -/
def syndrome (e : BitVec 24) : Byte :=
  crcShifts 0x31 8 (crcShifts 0x31 8 (e.extractLsb' 16 8)) ^^^ crcShifts 0x31 8 (e.extractLsb' 8 8) ^^^
    e.extractLsb' 0 8

/-- Whether a group of 24 bits passes verification at the default configuration (R54). -/
def passes (g : BitVec 24) : Bool :=
  groupOk Config.default (g.extractLsb' 16 8) (g.extractLsb' 8 8) (g.extractLsb' 0 8)

/-- An error pattern is undetected in a passing group exactly when its syndrome is zero (R69, R70). -/
theorem passes_xor {g : BitVec 24} (hg : passes g = true) (e : BitVec 24) :
    passes (g ^^^ e) = true ↔ syndrome e = 0 := by
  rw [passes, groupOk_iff] at hg ⊢
  rw [BitVec.extractLsb'_xor, BitVec.extractLsb'_xor, BitVec.extractLsb'_xor, crc8_xor, hg,
    crc8_eq_xor _ (e.extractLsb' 16 8), BitVec.xor_assoc, BitVec.xor_assoc _ _ (crc8 _ _ _), BitVec.xor_self,
    BitVec.xor_zero, BitVec.xor_right_inj, ← BitVec.xor_eq_zero_iff]
  rfl

theorem syndrome_xor : IsAdditive syndrome := by
  intro a b
  simp only [syndrome, BitVec.extractLsb'_xor, crcShifts_xor]
  ac_rfl

theorem crcShifts_add (poly : Byte) (m n : Nat) (c : Byte) :
    crcShifts poly (m + n) c = crcShifts poly n (crcShifts poly m c) := by
  induction m generalizing c with
  | zero => rw [Nat.zero_add, crcShifts]
  | succ m ih => rw [Nat.succ_add, crcShifts, crcShifts, ih]

/-- Below x^8 a power of x is its own remainder. -/
theorem remainder_of_lt : ∀ j < 8, crcShifts 0x31 j 1 = BitVec.twoPow 8 j := by decide

/-- The byte of a single bit that stands from position k on. -/
theorem extractLsb'_twoPow {i : Nat} (hi : i < 24) (k : Nat) :
    (BitVec.twoPow 24 i).extractLsb' k 8 = if k ≤ i ∧ i < k + 8 then crcShifts 0x31 (i - k) 1 else 0 := by
  have hbit (j : Nat) (hj : j < 8) : ((BitVec.twoPow 24 i).extractLsb' k 8).getLsbD j = decide (k + j = i) := by
    simp [hj, hi, eq_comm]
  apply BitVec.eq_of_getLsbD_eq
  intro j hj
  rw [hbit j hj]
  split
  case isTrue h =>
    rw [remainder_of_lt _ (by omega), BitVec.getLsbD_twoPow, decide_eq_true (show i - k < 8 by omega), Bool.true_and]
    exact decide_eq_decide.2 (by omega)
  case isFalse h => simpa using fun he => h (by omega)

/-- The syndrome of the bit at position i is x^i modulo the generator. -/
theorem syndrome_twoPow {i : Nat} (hi : i < 24) : syndrome (BitVec.twoPow 24 i) = crcShifts 0x31 i 1 := by
  have hsplit : i < 8 ∨ 8 ≤ i ∧ i < 16 ∨ 16 ≤ i := by omega
  rw [syndrome, extractLsb'_twoPow hi, extractLsb'_twoPow hi, extractLsb'_twoPow hi]
  rcases hsplit with h | h | h
  · rw [if_neg (by omega), if_neg (by omega), if_pos (by omega), crcShifts_zero, crcShifts_zero, Nat.sub_zero]
    simp
  · rw [if_neg (by omega), if_pos (by omega), if_neg (by omega), crcShifts_zero, crcShifts_zero, ← crcShifts_add,
      Nat.sub_add_cancel (by omega)]
    simp
  · rw [if_pos (by omega), if_neg (by omega), if_neg (by omega), crcShifts_zero, ← crcShifts_add, ← crcShifts_add,
      show i - 16 + (8 + 8) = i by omega]
    simp

/-- The syndrome of a pattern is the sum of the remainders of its powers of x. -/
theorem syndrome_eq_xorSum (e : BitVec 24) :
    syndrome e = xorSum ((bitPositions e).map fun i => crcShifts 0x31 i 1) := by
  rw [syndrome_xor.eq_xorSum]
  exact congrArg xorSum (List.map_congr_left fun i hi =>
    syndrome_twoPow (BitVec.lt_of_getLsbD (mem_bitPositions.1 hi)))

/-! ## Odd weight: the generator is divisible by x + 1 -/

/-- The sum of the bits of a byte over GF(2), its polynomial's value at 1. -/
def parity (b : Byte) : Bool :=
  b.getLsbD 0 ^^ b.getLsbD 1 ^^ b.getLsbD 2 ^^ b.getLsbD 3 ^^ b.getLsbD 4 ^^ b.getLsbD 5 ^^ b.getLsbD 6 ^^ b.getLsbD 7

theorem parity_xor (a b : Byte) : parity (a ^^^ b) = (parity a ^^ parity b) := by
  have : Std.Commutative Bool.xor := ⟨Bool.xor_comm⟩
  simp only [parity, BitVec.getLsbD_xor]
  ac_rfl

theorem parity_xorSum {l : List Byte} (h : ∀ b ∈ l, parity b = true) :
    parity (xorSum l) = decide (l.length % 2 = 1) := by
  induction l with
  | nil => rfl
  | cons b l ih =>
    obtain ⟨hb, hl⟩ := List.forall_mem_cons.1 h
    rw [xorSum, List.foldr_cons, parity_xor, hb, ← xorSum, ih hl, List.length_cons, Bool.true_xor, ← decide_not]
    exact decide_eq_decide.2 (by omega)

/-- A shift keeps the parity: the generator has an even number of terms. -/
theorem parity_crcShift (c : Byte) : parity (crcShift 0x31 c) = parity c := by
  have hshift : parity (c <<< 1) = (parity c ^^ c.msb) := by
    simp [parity, BitVec.msb_eq_getLsbD_last]
  have hpoly : parity 0x31 = true := by decide
  rw [crcShift]
  cases hm : c.msb with
  | false => simp [hshift, hm]
  | true => rw [if_pos rfl, parity_xor, hshift, hm, hpoly, Bool.xor_true, Bool.xor_true, Bool.not_not]

/-- Every power of x has an odd remainder. -/
theorem parity_remainder (i : Nat) : parity (crcShifts 0x31 i 1) = true := by
  have hkeep (c : Byte) : parity (crcShifts 0x31 i c) = parity c := by
    induction i generalizing c with
    | zero => rfl
    | succ i ih => rw [crcShifts, ih, parity_crcShift]
  rw [hkeep]
  decide

/-- An error of odd weight has an odd syndrome (R70). -/
theorem syndrome_ne_zero_of_odd {e : BitVec 24} (h : (bitPositions e).length % 2 = 1) : syndrome e ≠ 0 := by
  intro h0
  have hp : parity (syndrome e) = true := by
    rw [syndrome_eq_xorSum, parity_xorSum, List.length_map, decide_eq_true h]
    simpa only [List.forall_mem_map] using fun i _ => parity_remainder i
  rw [h0] at hp
  exact absurd hp (by decide)

/-! ## Weight 2: x has an order above 23 -/

/-- No power of x below x^24 but x^0 has the remainder 1. -/
theorem remainder_ne_one : ∀ d < 23, crcShifts 0x31 (d + 1) 1 ≠ 1 := by decide

/-- Different positions have different remainders: a shift loses nothing. -/
theorem remainder_ne {i j : Nat} (hij : i < j) (hj : j < 24) : crcShifts 0x31 i 1 ≠ crcShifts 0x31 j 1 := by
  obtain ⟨d, rfl⟩ := Nat.exists_eq_add_of_lt hij
  rw [show i + d + 1 = d + 1 + i by omega, crcShifts_add]
  exact fun h => remainder_ne_one d (by omega) (crcShifts_injective (by decide) i h).symm

/-- An error of weight 2 is detected (R70). -/
theorem syndrome_ne_zero_of_two {e : BitVec 24} (h : (bitPositions e).length = 2) : syndrome e ≠ 0 := by
  obtain ⟨i, j, hij⟩ := List.length_eq_two.1 h
  have hlt : i < j := by simpa [hij] using (bitPositions_sortedLT e).pairwise
  have hmem : j ∈ bitPositions e := by simp [hij]
  have hj : j < 24 := BitVec.lt_of_getLsbD (mem_bitPositions.1 hmem)
  rw [syndrome_eq_xorSum, hij]
  simpa [xorSum, BitVec.xor_eq_zero_iff] using remainder_ne hlt hj

/-- An error of weight 1 to 3 or of odd weight is detected (R70). -/
theorem syndrome_ne_zero_of_weight {e : BitVec 24} (he : e ≠ 0)
    (h : (bitPositions e).length ≤ 3 ∨ (bitPositions e).length % 2 = 1) : syndrome e ≠ 0 := by
  by_cases hodd : (bitPositions e).length % 2 = 1
  · exact syndrome_ne_zero_of_odd hodd
  · have hpos : (bitPositions e).length ≠ 0 := fun h0 =>
      he (bitPositions_injective ((List.length_eq_zero_iff.1 h0).trans (by decide)))
    exact syndrome_ne_zero_of_two (by omega)

/-! ## Bursts: a shift of the pattern is a shift of the syndrome -/

/-- The eight bits of a pattern from position m on. -/
def window (m : Nat) (e : BitVec 24) : Byte := e.extractLsb' m 8

/-- The syndrome of a pattern within eight adjacent bits is that window, shifted. -/
theorem syndrome_of_window {e : BitVec 24} {m : Nat} (hm : m ≤ 16)
    (h : ∀ i ∈ bitPositions e, m ≤ i ∧ i < m + 8) : syndrome e = crcShifts 0x31 m (window m e) := by
  have hadd : IsAdditive fun e => crcShifts 0x31 m (window m e) := fun a b => by
    simp only [window, BitVec.extractLsb'_xor, crcShifts_xor]
  refine syndrome_xor.congr hadd fun i hi => ?_
  obtain ⟨hlow, hhigh⟩ := h i hi
  rw [syndrome_twoPow (by omega), window, extractLsb'_twoPow (by omega), if_pos ⟨hlow, hhigh⟩, ← crcShifts_add,
    Nat.sub_add_cancel hlow]

/-- A burst of up to eight bits lies in a window that ends in the group. -/
theorem exists_window_of_burst {e : BitVec 24} {p : Byte} {k : Nat} (he : e = p.zeroExtend 24 <<< k) :
    ∃ m ≤ 16, ∀ i ∈ bitPositions e, m ≤ i ∧ i < m + 8 := by
  refine ⟨min k 16, min_le_right _ _, fun i hi => ?_⟩
  rw [mem_bitPositions, he, BitVec.getLsbD_shiftLeft] at hi
  simp only [Bool.and_eq_true, Bool.not_eq_true', decide_eq_true_eq, decide_eq_false_iff_not] at hi
  obtain ⟨⟨hi24, hk⟩, hbit⟩ := hi
  have hp : i - k < 8 := by
    simp only [BitVec.truncate_eq_setWidth, BitVec.getLsbD_setWidth, Bool.and_eq_true] at hbit
    exact BitVec.lt_of_getLsbD hbit.2
  omega

/-- A burst of up to eight bits is detected (R70). -/
theorem syndrome_ne_zero_of_burst {e : BitVec 24} (he : e ≠ 0) {p : Byte} {k : Nat}
    (hb : e = p.zeroExtend 24 <<< k) : syndrome e ≠ 0 := by
  obtain ⟨m, hm, hwin⟩ := exists_window_of_burst hb
  rw [syndrome_of_window hm hwin]
  intro h0
  have hz : window m e = 0 := eq_zero_of_crcShifts_eq_zero (by decide) h0
  refine he (BitVec.eq_of_getLsbD_eq fun i _ => ?_)
  rw [BitVec.ofNat_eq_ofNat, BitVec.getLsbD_zero, Bool.eq_false_iff]
  intro hi
  obtain ⟨hlow, hhigh⟩ := hwin i (mem_bitPositions.2 hi)
  have hwi : (window m e).getLsbD (i - m) = e.getLsbD i := by
    rw [window, BitVec.getLsbD_extractLsb', decide_eq_true (by omega), Bool.true_and, Nat.add_sub_cancel' hlow]
  rw [hz, hi] at hwi
  simp at hwi

/-! ## Weight 4 -/

/-- The positions of the undetected patterns of weight 4. -/
def undetectedOfWeightFour : List (List Nat) :=
  (List.sublistsLen 4 (List.range 24)).filter fun l => xorSum (l.map fun i => crcShifts 0x31 i 1) = 0

/-- The enumeration of R70, over the patterns of weight 4. -/
theorem length_undetectedOfWeightFour : undetectedOfWeightFour.length = 80 := by decide +kernel

/-- The list holds the positions of exactly the undetected patterns of weight 4. -/
theorem image_bitPositions :
    bitPositions '' {e : BitVec 24 | (bitPositions e).length = 4 ∧ syndrome e = 0} =
      ↑undetectedOfWeightFour.toFinset := by
  ext l
  simp only [Set.mem_image, Set.mem_ofPred_eq, List.coe_toFinset, undetectedOfWeightFour, List.mem_filter,
    List.mem_sublistsLen, decide_eq_true_eq]
  constructor
  · rintro ⟨e, ⟨h4, h0⟩, rfl⟩
    exact ⟨⟨List.filter_sublist, h4⟩, syndrome_eq_xorSum e ▸ h0⟩
  · rintro ⟨⟨hsub, h4⟩, h0⟩
    obtain ⟨e, rfl⟩ := exists_bitPositions_eq hsub
    exact ⟨e, ⟨h4, (syndrome_eq_xorSum e).trans h0⟩, rfl⟩

/-- Exactly 80 patterns of weight 4 have a zero syndrome (R70). -/
theorem ncard_undetected :
    Set.ncard {e : BitVec 24 | (bitPositions e).length = 4 ∧ syndrome e = 0} = 80 := by
  have hnodup : undetectedOfWeightFour.Nodup := (List.nodup_sublistsLen 4 List.nodup_range).filter _
  rw [← Set.ncard_image_of_injective _ bitPositions_injective, image_bitPositions, Set.ncard_coe_finset,
    List.toFinset_card_of_nodup hnodup, length_undetectedOfWeightFour]

/-- The generator itself, of weight 4, has a zero syndrome. -/
theorem syndrome_generator : syndrome 0x000131 = 0 := by
  have hmid : crcShifts 0x31 8 0x01 = 0x31 := by decide
  have hhigh : crcShifts 0x31 8 (crcShifts 0x31 8 0x00) = 0x00 := by
    rw [crcShifts_zero, crcShifts_zero]
  exact (congrArg₂ (fun a b : Byte => a ^^^ b ^^^ 0x31) hhigh hmid).trans (by decide)

/-- Settles O7: a pattern is undetected exactly when its syndrome is zero (`passes_xor`); the detected ones are
`syndrome_ne_zero_of_weight` and `syndrome_ne_zero_of_burst`, the generator itself has weight 4, and the count is
`ncard_undetected`. -/
theorem groupCodeHasMinimumDistanceFour : Obligations.GroupCodeHasMinimumDistanceFour := by
  intro ok weight hok hweight
  obtain rfl : ok = passes := funext hok
  obtain rfl : weight = fun e => (bitPositions e).length := funext hweight
  have hg : passes 0x000081 = true := groupOk_iff.2 crc8_default_zero
  refine ⟨fun g e hge he h => ?_, ⟨0x000081, 0x000131, hg, by decide, (passes_xor hg _).2 syndrome_generator⟩, ?_⟩
  · have hs : syndrome e ≠ 0 := by
      obtain h | h | ⟨p, k, hb⟩ := h
      · exact syndrome_ne_zero_of_weight he (.inl h)
      · exact syndrome_ne_zero_of_weight he (.inr h)
      · exact syndrome_ne_zero_of_burst he hb
    rwa [← Bool.not_eq_true, passes_xor hge]
  · refine (congrArg Set.ncard (Set.ext fun e => ?_)).trans ncard_undetected
    exact and_congr_right fun _ => ⟨fun h => (passes_xor hg e).1 (h _ hg), fun h0 g hge => (passes_xor hge e).2 h0⟩

end Sys2Proof.Machine
end

section
/-! PROOFS. Rounding to binary64 (00_scope.md R11): in units of the last place `fl64` rounds to the nearest integer, the
even one at a tie, and no binary64 value off those units is as near. -/

namespace Sys2Proof.Machine

/-! ## Rounding to an integer -/

/-- Half a unit away, `roundHalfEven` answers an even number. -/
theorem roundHalfEven_even {a b : Nat} (hb : 0 < b)
    (h : 2 * a = 2 * (roundHalfEven a b * b) + b ∨ 2 * a + b = 2 * (roundHalfEven a b * b)) :
    roundHalfEven a b % 2 = 0 := by
  refine roundHalfEven_tie ?_
  have hd := Nat.div_add_mod a b
  have hm := Nat.mod_lt a hb
  have hc : b * (a / b) = a / b * b := Nat.mul_comm _ _
  by_contra hne
  unfold roundHalfEven at h
  split at h
  · omega
  · rw [if_pos (by omega), Nat.add_mul] at h
    omega

/-- z is an integer nearest to q, the even one at a tie. -/
def IsNearestEven (q : Rat) (z : Int) : Prop := |q - z| ≤ 1 / 2 ∧ (|q - z| = 1 / 2 → Even z)

theorem IsNearestEven.neg {q : Rat} {z : Int} (h : IsNearestEven q z) : IsNearestEven (-q) (-z) := by
  have he : |-q - ((-z : Int) : Rat)| = |q - z| := by
    rw [Int.cast_neg, ← abs_neg, neg_sub, neg_sub_neg]
  rw [IsNearestEven, he]
  exact ⟨h.1, fun ht => (h.2 ht).neg⟩

/-- Different integers are at least 1 apart. -/
theorem one_le_abs_sub {t z : Int} (h : t ≠ z) : (1 : Rat) ≤ |(t : Rat) - z| := by
  exact_mod_cast Int.one_le_abs (sub_ne_zero.2 h)

section Nearest
variable {q : Rat} {z : Int} (h : IsNearestEven q z) (t : Int)
include h

/-- No integer is nearer. -/
theorem IsNearestEven.le : |q - z| ≤ |q - t| := by
  rcases eq_or_ne t z with rfl | hne
  · exact le_rfl
  have h1 := one_le_abs_sub hne
  have h2 := abs_sub_le (t : Rat) q z
  rw [abs_sub_comm (t : Rat) q] at h2
  linarith [h.1]

/-- Another integer as near is a neighbour, and then z is even. -/
theorem IsNearestEven.tie (hne : t ≠ z) (ht : |q - t| = |q - z|) : Even z ∧ (t = z + 1 ∨ t = z - 1) := by
  have h1 := one_le_abs_sub hne
  have h2 := abs_sub_le (t : Rat) q z
  rw [abs_sub_comm (t : Rat) q] at h2
  have habs : |(t : Rat) - z| = 1 := by linarith [h.1]
  refine ⟨h.2 (by linarith [h.1]), ?_⟩
  have hint : |t - z| = 1 := by exact_mod_cast habs
  rcases (abs_eq zero_le_one).1 hint with h | h <;> omega

end Nearest

/-- `roundHalfEven a b` is the integer nearest a / b (R11). -/
theorem isNearestEven_roundHalfEven (a : Nat) {b : Nat} (hb : 0 < b) :
    IsNearestEven ((a : Rat) / b) (roundHalfEven a b : Nat) := by
  obtain ⟨hlow, hhigh⟩ := roundHalfEven_near a hb
  have hb' : (0 : Rat) < b := by exact_mod_cast hb
  have hlow' : 2 * ((roundHalfEven a b : Rat) * b) ≤ 2 * a + b := by exact_mod_cast hlow
  have hhigh' : 2 * (a : Rat) ≤ 2 * (roundHalfEven a b * b) + b := by exact_mod_cast hhigh
  have hsub : (a : Rat) / b - ((roundHalfEven a b : Nat) : Int) = (a - roundHalfEven a b * b) / b := by
    rw [sub_div, mul_div_cancel_right₀ _ hb'.ne', Int.cast_natCast]
  rw [IsNearestEven, hsub, abs_div, abs_of_pos hb', div_le_iff₀ hb', div_eq_iff hb'.ne']
  refine ⟨abs_le.2 ⟨by linarith, by linarith⟩, fun ht => ?_⟩
  refine (Int.even_coe_nat _).2 (Nat.even_iff.2 (roundHalfEven_even hb ?_))
  rcases abs_eq (by positivity : (0 : Rat) ≤ 1 / 2 * b) |>.1 ht with he | he
  · left
    have : 2 * (a : Rat) = 2 * (roundHalfEven a b * b) + b := by linarith
    exact_mod_cast this
  · right
    have : 2 * (a : Rat) + b = 2 * (roundHalfEven a b * b) := by linarith
    exact_mod_cast this

/-! ## Rounding to binary64 -/

/-- The significand of `fl64 x` with the sign of x. -/
def signedSig (x : Rat) : Int := x.num.sign * sigOf x

/-- `fl64 x` in units of the last place of x. -/
theorem fl64_eq_signedSig (x : Rat) : fl64 x = (signedSig x : Rat) * (2 : Rat) ^ ulpOf x := fl64_eq x

/-- The significand of x is the integer nearest to its magnitude in units of the last place. -/
theorem isNearestEven_sigOf (x : Rat) : IsNearestEven (|x| / (2 : Rat) ^ ulpOf x) (sigOf x : Nat) := by
  have hd := x.den_pos
  rw [← natAbs_num_div_den, ← significand_ratio]
  exact isNearestEven_roundHalfEven _ (by positivity)

/-- With its sign it is the integer nearest to x in those units. -/
theorem isNearestEven_signedSig (x : Rat) : IsNearestEven (x / (2 : Rat) ^ ulpOf x) (signedSig x) := by
  have h := isNearestEven_sigOf x
  rw [signedSig]
  rcases lt_trichotomy x 0 with hx | rfl | hx
  · rw [Int.sign_eq_neg_one_of_neg (Rat.num_neg.2 hx), neg_one_mul]
    rw [abs_of_neg hx, neg_div] at h
    simpa using h.neg
  · simp [IsNearestEven]
  · rw [Int.sign_eq_one_of_pos (Rat.num_pos.2 hx), one_mul]
    rwa [abs_of_pos hx] at h

/-- The distance of x to a whole number of units in the last place. -/
theorem abs_sub_mul_ulp (x : Rat) (t : Int) :
    |x - t * (2 : Rat) ^ ulpOf x| = |x / (2 : Rat) ^ ulpOf x - t| * (2 : Rat) ^ ulpOf x := by
  have hu : (0 : Rat) < (2 : Rat) ^ ulpOf x := by positivity
  rw [← abs_of_pos hu, ← abs_mul, abs_of_pos hu, sub_mul, div_mul_cancel₀ _ hu.ne']

/-- No whole number of units in the last place is nearer to x than `fl64 x`. -/
theorem abs_sub_fl64_le_units (x : Rat) (t : Int) : |x - fl64 x| ≤ |x - t * (2 : Rat) ^ ulpOf x| := by
  rw [fl64_eq_signedSig, abs_sub_mul_ulp, abs_sub_mul_ulp]
  exact mul_le_mul_of_nonneg_right ((isNearestEven_signedSig x).le t) (by positivity)

/-- `fl64 x` is within half a unit in the last place of x. -/
theorem abs_sub_fl64_le_half_ulp (x : Rat) : |x - fl64 x| ≤ (2 : Rat) ^ ulpOf x / 2 := by
  have hu : (0 : Rat) < (2 : Rat) ^ ulpOf x := by positivity
  rw [fl64_eq_signedSig, abs_sub_mul_ulp]
  linarith [mul_le_mul_of_nonneg_right (isNearestEven_signedSig x).1 hu.le]

section Binary
variable {x y : Rat} (hx : x ≠ 0) (hy : IsBinary64 y)
include hx hy

/-- A binary64 value is a whole number of units in the last place of x, or is below the binade of x. -/
theorem units_or_below_binade :
    (∃ t : Int, y = t * (2 : Rat) ^ ulpOf x) ∨
      (|y| < 2 ^ 52 * (2 : Rat) ^ ulpOf x ∧ 2 ^ 52 * (2 : Rat) ^ ulpOf x ≤ |x|) := by
  obtain ⟨m, j, hm, hj, rfl⟩ := hy
  rcases le_or_gt (ulpOf x) j with hk | hk
  · obtain ⟨i, rfl⟩ : ∃ i : Nat, j = i + ulpOf x := ⟨(j - ulpOf x).toNat, by omega⟩
    refine .inl ⟨m * 2 ^ i, ?_⟩
    rw [zpow_add₀ two_ne_zero, zpow_natCast]
    push_cast
    ring
  · have hm' : |(m : Rat)| ≤ 2 ^ 53 := by exact_mod_cast hm
    have hle : |(m : Rat) * (2 : Rat) ^ j| ≤ 2 ^ 52 * (2 : Rat) ^ ulpOf x := by
      have hstep := zpow_le_zpow_right₀ (one_le_two : (1 : Rat) ≤ 2) (show j + 1 ≤ ulpOf x by omega)
      calc |(m : Rat) * (2 : Rat) ^ j| = |(m : Rat)| * (2 : Rat) ^ j := by
            rw [abs_mul, abs_of_pos (zpow_pos (two_pos : (0 : Rat) < 2) j)]
        _ ≤ 2 ^ 53 * (2 : Rat) ^ j := by gcongr
        _ = 2 ^ 52 * (2 : Rat) ^ (j + 1) := by rw [zpow_add_one₀ two_ne_zero]; ring
        _ ≤ 2 ^ 52 * (2 : Rat) ^ ulpOf x := by gcongr
    rcases hle.eq_or_lt with heq | hlt
    · -- The binade's least magnitude is itself 2^52 units.
      left
      rcases eq_or_eq_neg_of_abs_eq heq with he | he
      · exact ⟨2 ^ 52, by rw [he]; norm_cast⟩
      · exact ⟨-2 ^ 52, by rw [he]; push_cast; ring⟩
    · exact .inr ⟨hlt, ulp_le_abs hx (by omega)⟩

/-- No binary64 value is nearer to x than `fl64 x`, and one that is as near is a whole number of units of x. -/
theorem abs_sub_fl64_le_or_units :
    |x - fl64 x| < |x - y| ∨ (∃ t : Int, y = t * (2 : Rat) ^ ulpOf x) := by
  rcases units_or_below_binade hx hy with hu | ⟨hlt, hbinade⟩
  · exact .inr hu
  left
  have hnear : |x - fl64 x| ≤ |x| - 2 ^ 52 * (2 : Rat) ^ ulpOf x := by
    rcases lt_or_gt_of_ne hx with hneg | hpos
    · refine (abs_sub_fl64_le_units x (-2 ^ 52)).trans_eq ?_
      rw [abs_of_neg hneg] at hbinade ⊢
      push_cast
      rw [neg_mul, sub_neg_eq_add, abs_of_nonpos (by linarith)]
      ring
    · refine (abs_sub_fl64_le_units x (2 ^ 52)).trans_eq ?_
      rw [abs_of_pos hpos] at hbinade ⊢
      push_cast
      rw [abs_of_nonneg (by linarith)]
      norm_num
  linarith [abs_sub_abs_le_abs_sub x y]

end Binary

/-- `fl64 0` is 0. -/
@[simp] theorem fl64_zero : fl64 0 = 0 := by decide

/-- `fl64 x` is a binary64 value nearest to x (R11). -/
theorem abs_sub_fl64_le (x : Rat) {y : Rat} (hy : IsBinary64 y) : |x - fl64 x| ≤ |x - y| := by
  rcases eq_or_ne x 0 with rfl | hx
  · simp
  rcases abs_sub_fl64_le_or_units hx hy with hlt | ⟨t, rfl⟩
  · exact hlt.le
  · exact abs_sub_fl64_le_units x t

/-- Where another binary64 value is as near, it is a neighbour of `fl64 x` among the units of x, of which `fl64 x` is
an even number (R11). -/
theorem fl64_even_of_tie {x y : Rat} (hy : IsBinary64 y) (hne : y ≠ fl64 x) (ht : |x - y| = |x - fl64 x|) :
    Even (signedSig x) ∧ (y = ((signedSig x + 1 : Int) : Rat) * (2 : Rat) ^ ulpOf x ∨
      y = ((signedSig x - 1 : Int) : Rat) * (2 : Rat) ^ ulpOf x) := by
  rcases eq_or_ne x 0 with rfl | hx
  · simp_all
  rcases abs_sub_fl64_le_or_units hx hy with hlt | ⟨t, rfl⟩
  · exact absurd ht hlt.ne'
  have hu : (2 : Rat) ^ ulpOf x ≠ 0 := by positivity
  have htz : t ≠ signedSig x := fun h => hne (by rw [h, fl64_eq_signedSig])
  rw [fl64_eq_signedSig, abs_sub_mul_ulp, abs_sub_mul_ulp, mul_left_inj' hu] at ht
  obtain ⟨heven, rfl | rfl⟩ := (isNearestEven_signedSig x).tie t htz ht
  · exact ⟨heven, .inl rfl⟩
  · exact ⟨heven, .inr rfl⟩

/-- Settles O25: `isBinary64_fl64`, `abs_sub_fl64_le`, and the even neighbour at a tie (`fl64_even_of_tie`). -/
theorem fl64IsNearestTiesToEven : Obligations.Fl64IsNearestTiesToEven := by
  intro B hB x
  obtain rfl : B = IsBinary64 := funext fun y => propext (hB y)
  refine ⟨isBinary64_fl64 x, fun y hy => abs_sub_fl64_le x hy, fun y hy hne ht => ?_⟩
  obtain ⟨heven, hneighbour⟩ := fl64_even_of_tie hy hne ht
  exact ⟨signedSig x, ulpOf x, heven, neg_1074_le_ulpOf x, fl64_eq_signedSig x, hneighbour⟩

/-- Settles O26: `binary64Value_packBinary64_fl64`, with the bound as a power of an integer exponent. -/
theorem packedBitsHoldTheRoundedValue : Obligations.PackedBitsHoldTheRoundedValue := fun _ h =>
  binary64Value_packBinary64_fl64 (h.trans_eq (zpow_natCast 2 1023).symm)

end Sys2Proof.Machine
end

section
/-! PROOFS. The accuracy of the conversions (42_response_decode.md R85 to R90): each rounding is within half a unit in
the last place, far below the distance of the exact values of two raw words, so every mode is strictly increasing. -/

namespace Sys2Proof.Machine

/-! ## The error of one rounding -/

/-- A binary64 value is its own rounding (R11). -/
theorem fl64_of_isBinary64 {x : Rat} (h : IsBinary64 x) : fl64 x = x := by
  have hle := abs_sub_fl64_le x h
  rw [sub_self, abs_zero, abs_nonpos_iff, sub_eq_zero] at hle
  exact hle.symm

/-- Rounding does not pass a binary64 value from below. -/
theorem fl64_le {x b : Rat} (hb : IsBinary64 b) (h : x ≤ b) : fl64 x ≤ b := by
  have hle := abs_sub_fl64_le x hb
  rw [abs_sub_comm x b, abs_of_nonneg (sub_nonneg.2 h), abs_sub_comm] at hle
  linarith [le_abs_self (fl64 x - x)]

/-- Rounding does not pass a binary64 value from above. -/
theorem le_fl64 {x b : Rat} (hb : IsBinary64 b) (h : b ≤ x) : b ≤ fl64 x := by
  have hle := abs_sub_fl64_le x hb
  rw [abs_of_nonneg (sub_nonneg.2 h)] at hle
  linarith [le_abs_self (x - fl64 x)]

/-- Rounding does not make a number negative. -/
theorem fl64_nonneg {x : Rat} (h : 0 ≤ x) : 0 ≤ fl64 x :=
  le_fl64 (by exact_mod_cast isBinary64_intCast (m := 0) (by norm_num)) h

/-- A whole number of units 2^k is a binary64 value up to 2^53 of them. -/
theorem isBinary64_of_units {x : Rat} {k : Int} (hk : -1074 ≤ k) (hx : ∃ t : Int, x = t * (2 : Rat) ^ k)
    (h : |x| ≤ (2 : Rat) ^ (k + 53)) : IsBinary64 x := by
  obtain ⟨t, rfl⟩ := hx
  refine ⟨t, k, ?_, hk, rfl⟩
  have hpos : (0 : Rat) < (2 : Rat) ^ k := by positivity
  rw [abs_mul, abs_of_pos hpos, zpow_add₀ two_ne_zero, mul_comm ((2 : Rat) ^ k), mul_le_mul_iff_left₀ hpos] at h
  exact_mod_cast h

/-- The unit in the last place of a number below 2^j. -/
theorem ulpOf_lt {x : Rat} {j : Int} (hx : x ≠ 0) (h : |x| < (2 : Rat) ^ j) : ulpOf x ≤ max (j - 53) (-1074) := by
  rw [← natAbs_num_div_den] at h
  have : floorLog2 x.num.natAbs x.den < j :=
    (zpow_lt_zpow_iff_right₀ one_lt_two).1 ((floorLog2_spec (natAbs_num_pos hx) x.den_pos).1.trans_lt h)
  unfold ulpOf ulpExponent
  omega

/-- The unit in the last place of a number from 2^j on. -/
theorem le_ulpOf {x : Rat} {j : Int} (h : (2 : Rat) ^ j ≤ |x|) : j - 52 ≤ ulpOf x := by
  have hlt : (2 : Rat) ^ j < (2 : Rat) ^ (53 + ulpOf x) := by
    calc (2 : Rat) ^ j ≤ |x| := h
      _ < 2 ^ 53 * (2 : Rat) ^ ulpOf x := abs_lt_ulp x
      _ = (2 : Rat) ^ (53 + ulpOf x) := by rw [zpow_add₀ two_ne_zero]; norm_cast
  have := (zpow_lt_zpow_iff_right₀ (one_lt_two : (1 : Rat) < 2)).1 hlt
  omega

/-- Up to 2^j the error of a rounding is at most 2^(j - 54). -/
theorem abs_fl64_sub_le {x : Rat} {j : Int} (hj : -1021 ≤ j) (h : |x| ≤ (2 : Rat) ^ j) :
    |fl64 x - x| ≤ (2 : Rat) ^ (j - 54) := by
  rcases eq_or_ne x 0 with rfl | hx
  · simp only [fl64_zero, sub_zero, abs_zero]
    positivity
  rw [abs_sub_comm]
  rcases h.eq_or_lt with heq | hlt
  · have hb : IsBinary64 x := by
      rcases eq_or_eq_neg_of_abs_eq heq with rfl | rfl
      · exact ⟨1, j, by norm_num, by omega, by simp⟩
      · exact ⟨-1, j, by norm_num, by omega, by simp⟩
    rw [fl64_of_isBinary64 hb, sub_self, abs_zero]
    positivity
  · have hu : ulpOf x ≤ j - 53 := (ulpOf_lt hx hlt).trans (by omega)
    calc |x - fl64 x| ≤ (2 : Rat) ^ ulpOf x / 2 := abs_sub_fl64_le_half_ulp x
      _ ≤ (2 : Rat) ^ (j - 53) / 2 := by gcongr; exact one_le_two
      _ = (2 : Rat) ^ (j - 54) := by rw [show j - 53 = j - 54 + 1 by ring, zpow_add_one₀ two_ne_zero]; ring

/-! ## The errors of the conversions -/

section Errors
variable (r : Word)

/-- The rounded fraction of full scale lies in [0, 1]. -/
theorem fdiv_range : 0 ≤ fdiv (r.toNat : Rat) 65535 ∧ fdiv (r.toNat : Rat) 65535 ≤ 1 := by
  obtain ⟨h0, h1⟩ := fraction_mem_unitInterval r
  exact ⟨fl64_nonneg h0,
    fl64_le (b := 1) (by exact_mod_cast isBinary64_intCast (m := 1) (by norm_num)) h1⟩

/-- The first rounding of `Seq64` (R87). -/
theorem abs_fdiv_sub_le : |fdiv (r.toNat : Rat) 65535 - r.toNat / 65535| ≤ 1 / 2 ^ 54 :=
  (abs_fl64_sub_le (j := 0) (by norm_num) (by simpa using abs_fraction_le r)).trans_eq (by norm_num)

/-- The clamp leaves a value of its range as it is (R86). -/
theorem clampPercent_of_mem {x : Rat} (h0 : 0 ≤ x) (h1 : x ≤ 100) : clampPercent x = x := by
  rw [clampPercent, max_eq_left h0, min_eq_left h1]

/-- The exact humidity lies in [0, 100] without the clamp (R90). -/
theorem humidityUnclamped_range : 0 ≤ humidityUnclamped r.toNat ∧ humidityUnclamped r.toNat ≤ 100 := by
  obtain ⟨h0, h1⟩ := fraction_mem_unitInterval r
  rw [humidityUnclamped, mul_div_assoc]
  constructor <;> linarith

/-- So does the humidity of `Seq64`: 0 and 100 are binary64 values, which no rounding passes (R90). -/
theorem humidityUnclampedSeq64_range :
    0 ≤ humidityUnclampedSeq64 r.toNat ∧ humidityUnclampedSeq64 r.toNat ≤ 100 := by
  obtain ⟨h0, h1⟩ := fdiv_range r
  exact ⟨fl64_nonneg (by positivity),
    fl64_le (b := 100) (by exact_mod_cast isBinary64_intCast (m := 100) (by norm_num)) (by linarith)⟩

theorem humidityExact_eq : humidityExact r.toNat = humidityUnclamped r.toNat :=
  clampPercent_of_mem (humidityUnclamped_range r).1 (humidityUnclamped_range r).2

theorem humiditySeq64_eq : humiditySeq64 r.toNat = humidityUnclampedSeq64 r.toNat :=
  clampPercent_of_mem (humidityUnclampedSeq64_range r).1 (humidityUnclampedSeq64_range r).2

/-- Half a unit in the last place below 256, the error of a temperature in `CR64` (R89). -/
theorem abs_fl64_temperatureExact_sub_le :
    |fl64 (temperatureExact r.toNat) - temperatureExact r.toNat| ≤ 1 / 2 ^ 46 := by
  obtain ⟨h0, h1⟩ := temperatureExact_range r
  have h : |temperatureExact r.toNat| ≤ (2 : Rat) ^ (8 : Int) := by
    rw [abs_le]
    constructor <;> norm_num <;> linarith
  exact (abs_fl64_sub_le (by norm_num) h).trans_eq (by norm_num)

section Sum
variable {f : Rat} (h0 : 0 ≤ f)
include h0

/-- Up to 128 the product and the sum of the `Seq64` temperature are each off by at most 2^-47 (R87). -/
theorem abs_fadd_fmul_sub_le_of_le (hle : 175 * f ≤ 128) :
    |fadd (-45) (fmul 175 f) - (-45 + 175 * f)| ≤ 1 / 2 ^ 46 := by
  have hx : |175 * f| ≤ (2 : Rat) ^ (7 : Int) := by
    rw [abs_of_nonneg (by positivity)]
    norm_num
    exact hle
  have hp : |fmul 175 f - 175 * f| ≤ 1 / 2 ^ 47 := (abs_fl64_sub_le (by norm_num) hx).trans_eq (by norm_num)
  have hp0 : 0 ≤ fmul 175 f := fl64_nonneg (by positivity)
  have hs : |-45 + fmul 175 f| ≤ (2 : Rat) ^ (7 : Int) := by
    have hp128 : |fmul 175 f| ≤ (2 : Rat) ^ (7 : Int) := abs_fl64_le (by norm_num) hx
    norm_num [abs_le] at hp128 ⊢
    constructor <;> linarith
  have hsum : |fadd (-45) (fmul 175 f) - (-45 + fmul 175 f)| ≤ 1 / 2 ^ 47 :=
    (abs_fl64_sub_le (by norm_num) hs).trans_eq (by norm_num)
  calc |fadd (-45) (fmul 175 f) - (-45 + 175 * f)|
      ≤ |fadd (-45) (fmul 175 f) - (-45 + fmul 175 f)| + |-45 + fmul 175 f - (-45 + 175 * f)| := abs_sub_le _ _ _
    _ ≤ 1 / 2 ^ 47 + 1 / 2 ^ 47 := by rw [add_sub_add_left_eq_sub]; gcongr
    _ = 1 / 2 ^ 46 := by norm_num

theorem abs_175_mul_le (h1 : f ≤ 1) : |175 * f| ≤ (2 : Rat) ^ (8 : Int) := by
  rw [abs_of_nonneg (by positivity)]
  norm_num
  linarith

variable (h1 : f ≤ 1) (hgt : 128 < 175 * f)
include h1 hgt

/-- Above 128 the sum is exact: the product is whole units of 2^-45, and so is 45. -/
theorem fadd_fmul_of_lt : fadd (-45) (fmul 175 f) = -45 + fmul 175 f := by
  have hulp : -45 ≤ ulpOf (175 * f) := le_ulpOf (j := 7) (by
    rw [abs_of_nonneg (by positivity)]
    norm_num
    exact hgt.le)
  refine fl64_of_isBinary64 (isBinary64_of_units (k := -45) (by norm_num) ?_ ?_)
  · obtain ⟨i, hi⟩ : ∃ i : Nat, ulpOf (175 * f) = i + (-45) := ⟨(ulpOf (175 * f) + 45).toNat, by omega⟩
    refine ⟨signedSig (175 * f) * 2 ^ i - 45 * 2 ^ 45, ?_⟩
    rw [fmul, fl64_eq_signedSig, hi, zpow_add₀ two_ne_zero, zpow_natCast]
    push_cast
    norm_num
    ring
  · have hp256 := abs_le.1 (abs_fl64_le (by norm_num) (abs_175_mul_le h0 h1))
    have hp0 : 0 ≤ fmul 175 f := fl64_nonneg (by positivity)
    rw [abs_le]
    norm_num [fmul] at hp256 hp0 ⊢
    constructor <;> linarith

/-- So above 128 only the product is off, by at most 2^-46 (R87). -/
theorem abs_fadd_fmul_sub_le_of_lt : |fadd (-45) (fmul 175 f) - (-45 + 175 * f)| ≤ 1 / 2 ^ 46 := by
  rw [fadd_fmul_of_lt h0 h1 hgt, add_sub_add_left_eq_sub]
  exact (abs_fl64_sub_le (by norm_num) (abs_175_mul_le h0 h1)).trans_eq (by norm_num)

end Sum

/-- The product and the sum of the `Seq64` temperature together are off by at most 2^-46 (R87). -/
theorem abs_fadd_fmul_sub_le {f : Rat} (h0 : 0 ≤ f) (h1 : f ≤ 1) :
    |fadd (-45) (fmul 175 f) - (-45 + 175 * f)| ≤ 1 / 2 ^ 46 :=
  (le_or_gt (175 * f) 128).elim (abs_fadd_fmul_sub_le_of_le h0) (abs_fadd_fmul_sub_le_of_lt h0 h1)

/-- The temperature in `Seq64` is within 2.4e-14 of the exact one (R89). -/
theorem abs_temperatureSeq64_sub_lt : |temperatureSeq64 r.toNat - temperatureExact r.toNat| < 24 / 10 ^ 15 := by
  obtain ⟨h0, h1⟩ := fdiv_range r
  have hscaled : |-45 + 175 * fdiv (r.toNat : Rat) 65535 - temperatureExact r.toNat| ≤ 175 * (1 / 2 ^ 54) := by
    rw [temperatureExact, mul_div_assoc, add_sub_add_left_eq_sub, ← mul_sub, abs_mul, abs_of_pos (by norm_num)]
    gcongr
    exact abs_fdiv_sub_le r
  calc |temperatureSeq64 r.toNat - temperatureExact r.toNat|
      ≤ |temperatureSeq64 r.toNat - (-45 + 175 * fdiv (r.toNat : Rat) 65535)| +
          |-45 + 175 * fdiv (r.toNat : Rat) 65535 - temperatureExact r.toNat| := abs_sub_le _ _ _
    _ ≤ 1 / 2 ^ 46 + 175 * (1 / 2 ^ 54) := add_le_add (abs_fadd_fmul_sub_le h0 h1) hscaled
    _ < 24 / 10 ^ 15 := by norm_num

/-- A humidity rounded to binary64 is off by at most 2^-47 (R88). -/
theorem abs_fl64_humidity_sub_le {x : Rat} (h0 : 0 ≤ x) (h1 : x ≤ 100) : |fl64 x - x| ≤ 1 / 2 ^ 47 := by
  have h : |x| ≤ (2 : Rat) ^ (7 : Int) := by
    rw [abs_of_nonneg h0]
    exact h1.trans (by norm_num)
  exact (abs_fl64_sub_le (by norm_num) h).trans_eq (by norm_num)

/-- The humidity in `Seq64` is as near to the exact one (R87). -/
theorem abs_humiditySeq64_sub_lt : |humiditySeq64 r.toNat - humidityExact r.toNat| < 24 / 10 ^ 15 := by
  obtain ⟨h0, h1⟩ := fdiv_range r
  have hscaled : |100 * fdiv (r.toNat : Rat) 65535 - humidityUnclamped r.toNat| ≤ 100 * (1 / 2 ^ 54) := by
    rw [humidityUnclamped, mul_div_assoc, ← mul_sub, abs_mul, abs_of_pos (by norm_num)]
    gcongr
    exact abs_fdiv_sub_le r
  rw [humiditySeq64_eq, humidityExact_eq]
  calc |humidityUnclampedSeq64 r.toNat - humidityUnclamped r.toNat|
      ≤ |humidityUnclampedSeq64 r.toNat - 100 * fdiv (r.toNat : Rat) 65535| +
          |100 * fdiv (r.toNat : Rat) 65535 - humidityUnclamped r.toNat| := abs_sub_le _ _ _
    _ ≤ 1 / 2 ^ 47 + 100 * (1 / 2 ^ 54) :=
        add_le_add (abs_fl64_humidity_sub_le (by positivity) (by linarith)) hscaled
    _ < 24 / 10 ^ 15 := by norm_num

end Errors

/-! ## The values of the readings -/

/-- The number a temperature reading stands for (R85, R87, R88). -/
def temperatureValue (m : ConvMode) (r : Word) : Rat :=
  match m with
  | .exact => temperatureExact r.toNat
  | .seq64 => temperatureSeq64 r.toNat
  | .cr64 => fl64 (temperatureExact r.toNat)

/-- The number a humidity reading stands for (R86, R87, R88). -/
def humidityValue (m : ConvMode) (r : Word) : Rat :=
  match m with
  | .exact => humidityExact r.toNat
  | .seq64 => humiditySeq64 r.toNat
  | .cr64 => fl64 (humidityExact r.toNat)

section Values
variable (m : ConvMode) (r : Word)

theorem temperature_value : (temperature m r).value = some (temperatureValue m r) := by
  cases m with
  | exact => rfl
  | seq64 => exact temperature_seq64_value r
  | cr64 => exact temperature_cr64_value r

theorem humidity_value : (humidity m r).value = some (humidityValue m r) := by
  cases m with
  | exact => rfl
  | seq64 => exact humidity_seq64_value r
  | cr64 => exact humidity_cr64_value r

/-- In every mode the temperature is within 2.4e-14 of the exact one (R89). -/
theorem abs_temperatureValue_sub_lt : |temperatureValue m r - temperatureExact r.toNat| < 24 / 10 ^ 15 := by
  cases m with
  | exact => simp [temperatureValue]
  | seq64 => exact abs_temperatureSeq64_sub_lt r
  | cr64 => exact (abs_fl64_temperatureExact_sub_le r).trans_lt (by norm_num)

/-- In every mode the humidity is within 2.4e-14 of the exact one. -/
theorem abs_humidityValue_sub_lt : |humidityValue m r - humidityExact r.toNat| < 24 / 10 ^ 15 := by
  cases m with
  | exact => simp [humidityValue]
  | seq64 => exact abs_humiditySeq64_sub_lt r
  | cr64 =>
    obtain ⟨h0, h1⟩ := humidityUnclamped_range r
    rw [humidityValue, humidityExact_eq]
    exact (abs_fl64_humidity_sub_le h0 h1).trans_lt (by norm_num)

end Values

/-! ## Strict monotonicity -/

section Monotone
variable (m : ConvMode) {r q : Word} (h : r < q)
include h

/-- Two raw words are at least one step of full scale apart. -/
theorem fraction_step : (r.toNat : Rat) / 65535 + 1 / 65535 ≤ (q.toNat : Rat) / 65535 := by
  have hq : (r.toNat : Rat) + 1 ≤ q.toNat := by exact_mod_cast Nat.succ_le_of_lt (BitVec.lt_def.1 h)
  rw [← add_div]
  gcongr

/-- The errors are far below the step of the temperature, so no mode reverses or merges two readings (R89). -/
theorem temperatureValue_lt : temperatureValue m r < temperatureValue m q := by
  have hr := abs_lt.1 (abs_temperatureValue_sub_lt m r)
  have hq := abs_lt.1 (abs_temperatureValue_sub_lt m q)
  rw [temperatureExact, mul_div_assoc] at hr hq
  linarith [fraction_step h]

/-- The same for the humidity (R89). -/
theorem humidityValue_lt : humidityValue m r < humidityValue m q := by
  have hr := abs_lt.1 (abs_humidityValue_sub_lt m r)
  have hq := abs_lt.1 (abs_humidityValue_sub_lt m q)
  rw [humidityExact_eq, humidityUnclamped, mul_div_assoc] at hr hq
  linarith [fraction_step h]

end Monotone

/-! ## The endpoints -/

/-- The least humidity is 0 in every mode (R89). -/
theorem humidityValue_zero (m : ConvMode) : humidityValue m 0 = 0 := by
  have hexact : humidityExact (0 : Word).toNat = 0 := by
    rw [humidityExact_eq, humidityUnclamped]
    simp
  cases m with
  | exact => exact hexact
  | seq64 =>
    rw [humidityValue, humiditySeq64_eq, humidityUnclampedSeq64, fmul, fdiv]
    simp
  | cr64 => rw [humidityValue, hexact, fl64_zero]

theorem humidityValue_ones (m : ConvMode) : humidityValue m 0xFFFF = 100 := by
  obtain ⟨-, -, h, -, -⟩ := readings_at_examples m
  exact Option.some.inj ((humidity_value m 0xFFFF).symm.trans h)

/-- Settles O28: the values are `temperatureValue` and `humidityValue`, whose errors bound their steps
(`temperatureValue_lt`, `humidityValue_lt`). -/
theorem conversionsAreMonotoneAndAccurate : Obligations.ConversionsAreMonotoneAndAccurate := by
  intro m
  obtain ⟨hlow, hhigh, -, -, -⟩ := readings_at_examples m
  refine ⟨temperatureValue m, humidityValue m, fun r => ⟨temperature_value m r, humidity_value m r⟩,
    Option.some.inj ((temperature_value m 0).symm.trans hlow),
    Option.some.inj ((temperature_value m 0xFFFF).symm.trans hhigh), humidityValue_zero m, humidityValue_ones m,
    fun r q h => ⟨temperatureValue_lt m h, humidityValue_lt m h⟩, ?_, fun r _ => abs_temperatureValue_sub_lt m r, ?_⟩
  · rintro r rfl
    rfl
  · rintro r rfl
    exact (abs_fl64_temperatureExact_sub_le r).trans_lt (by norm_num)

/-- Below full scale the humidity is below 100 in every mode, being strictly increasing (R90). -/
theorem humidity_value_eq_100_iff (m : ConvMode) (r : Word) : (humidity m r).value = some 100 ↔ r = 0xFFFF := by
  rw [humidity_value, Option.some.injEq]
  refine ⟨fun h => ?_, fun h => h ▸ humidityValue_ones m⟩
  by_contra hne
  have hlt : r < 0xFFFF :=
    BitVec.lt_def.2 (lt_of_le_of_ne (Nat.le_of_lt_succ r.isLt) fun he => hne (BitVec.eq_of_toNat_eq he))
  exact absurd h ((humidityValue_lt m hlt).trans_eq (humidityValue_ones m)).ne

/-- Settles O29: the unclamped humidities lie in [0, 100] (`humidityUnclamped_range`,
`humidityUnclampedSeq64_range`), so the clamp is idle, and 100 is reached at the top alone. -/
theorem humidityClampNeverChangesAValue : Obligations.HumidityClampNeverChangesAValue := fun r =>
  ⟨(humidityUnclamped_range r).1, (humidityUnclamped_range r).2, (humidityUnclampedSeq64_range r).1,
    (humidityUnclampedSeq64_range r).2, humidityExact_eq r, humiditySeq64_eq r, fun m => humidity_value_eq_100_iff m r⟩

end Sys2Proof.Machine
end
